-- ==== Sys2Proof/Word.lean ====
section
/-! DEFINITION. The value types of the CHIP-8 engine (spec 00_scope.md R7 to R9). -/

namespace Sys2Proof

/-- An 8-bit unsigned value: a register, a timer, a byte of memory, an `nn` immediate (R7 `REG_W`, R9). -/
abbrev Byte := BitVec 8

/-- A 16-bit unsigned value: the instruction word, `PC`, `I`, a stack entry (R7 `PC_W`, `I_W`, `STACK_DEPTH`). -/
abbrev Word := BitVec 16

/-- A 12-bit memory address or `nnn` immediate (R7 `ADDR_W`, R60). -/
abbrev Addr := BitVec 12

/-- The number of a general register, V0 to VF (R20, R93: all 16 values are legal). -/
abbrev RegIx := Fin 16

/-- The number of a logical key, 0x0 to 0xF (R29). -/
abbrev KeyIx := Fin 16

end Sys2Proof
end

