-- ==== Sys2Proof/Config.lean ====
section
/-! DEFINITION. What an implementation fixes (spec 00_scope.md R7) and the one free value of the model, the random byte. -/

namespace Sys2Proof

/-- A font table: 16 glyphs of 5 bytes (R36). -/
abbrev Font := Vector (Vector Byte 5) 16

/-- The parameters of an engine. `FONT` is the only one that the spec leaves open (R7, R36, D19); RESET copies it to
0x000-0x04F. The default glyphs are `Machine.defaultFont`. -/
structure Params where
  /-- The 80 glyph bytes, glyph d at address 5·d (R36). -/
  font : Font
  deriving DecidableEq, Repr

/-- `MEM_SIZE`: the number of bytes of memory (R7, R60). -/
def memSize : Nat := 4096

/-- `FONT_SIZE`: the number of font bytes, at 0x000-0x04F (R7, R61). -/
def fontSize : Nat := 80

/-- `PROG_BASE`: where LOAD puts a program and where PC starts (R7, R61). -/
def progBase : Nat := 0x200

/-- `PROG_MAX`: the longest program image, in bytes (R7, R311). -/
def progMax : Nat := 3584

/-- `STACK_DEPTH` (R7). -/
def stackDepth : Nat := 16

/-- `FB_W`: the number of framebuffer columns (R7, R30). -/
def fbWidth : Nat := 64

/-- `FB_H`: the number of framebuffer rows (R7, R30). -/
def fbHeight : Nat := 32

/-- The highest PC from which a two-byte instruction can be fetched (R124). -/
def lastFetch : Nat := 0xFFE

/-- `TIMER_HZ`: the rate of the gated timer poll (R7). -/
def timerHz : Nat := 60

/-- DESIGN CHOICE (log entry 3): `TIMER_REF` counts nanoseconds, so a second is this many units. -/
def nanosPerSecond : Nat := 1000000000

/-- The random-byte input of the block (R315, D22, U6): the k-th byte that the provider supplies. It is a FREE VALUE: it
has no body, so nothing in Lean can evaluate it, and a statement about it holds for every provider (log entry 2). -/
opaque Config.randomByte : Nat → Byte

end Sys2Proof
end

