-- ==== Sys2Proof/Machine/Font.lean ====
section
/-! DEFINITION. The font glyphs (spec 10_state.md R36). The source does not give the bytes; the table is the spec's
default for the parameter `FONT`, from general knowledge (D19, K1). PRESUMED, unsafe: log entry 1. -/

namespace Sys2Proof.Machine

/-- The default of `FONT`: the table of R36, glyph d at address 5·d. -/
def defaultFont : Font :=
  #v[#v[0xF0, 0x90, 0x90, 0x90, 0xF0], #v[0x20, 0x60, 0x20, 0x20, 0x70],
     #v[0xF0, 0x10, 0xF0, 0x80, 0xF0], #v[0xF0, 0x10, 0xF0, 0x10, 0xF0],
     #v[0x90, 0x90, 0xF0, 0x10, 0x10], #v[0xF0, 0x80, 0xF0, 0x10, 0xF0],
     #v[0xF0, 0x80, 0xF0, 0x90, 0xF0], #v[0xF0, 0x10, 0x20, 0x40, 0x40],
     #v[0xF0, 0x90, 0xF0, 0x90, 0xF0], #v[0xF0, 0x90, 0xF0, 0x10, 0xF0],
     #v[0xF0, 0x90, 0xF0, 0x90, 0x90], #v[0xE0, 0x90, 0xE0, 0x90, 0xE0],
     #v[0xF0, 0x80, 0x80, 0x80, 0xF0], #v[0xE0, 0x90, 0x90, 0x90, 0xE0],
     #v[0xF0, 0x80, 0xF0, 0x80, 0xF0], #v[0xF0, 0x80, 0xF0, 0x80, 0x80]]

/-- The parameters with the default `FONT` (R7, R36). -/
def defaultParams : Params := ⟨defaultFont⟩

/-- The byte that construction puts at address `a`: `FONT[a]` in 0x000-0x04F and zero above (R62). -/
def fontByte (f : Font) (a : Nat) : Byte :=
  if h : a < 80 then
    have hd : a / 5 < 16 := by omega
    have hr : a % 5 < 5 := by omega
    f[a / 5][a % 5]
  else 0

end Sys2Proof.Machine
end

