-- ==== Sys2Proof/Machine/State.lean ====
section
/-! DEFINITION. The state of the engine (spec 10_state.md R20 to R35), the reasons a step can stop, and the state after
reset (70_reset_and_hazards.md R350). -/

namespace Sys2Proof.Machine

/-- `MEM[0..4095]` (R33, R60): the bytes that differ from `Memory.base`, which is what an unlisted address reads as, by
rising address. `Memory.wf` says the form. -/
abbrev Memory := List Host.Cell

/-- `FB[0..63][0..31]` (R30): 64 columns of 32 pixels, indexed column first as the spec writes it. -/
abbrev FrameBuffer := Vector (Vector Bool 32) 64

/-- The fatal errors of R301 that STEP raises. -/
inductive HaltCode where
  /-- Code 1: the fetched word matches no row of R97 (R123). -/
  | invalidOpcode
  /-- Code 2: CALL with SP = 16 (R142). -/
  | stackOverflow
  /-- Code 3: RET with SP = 0 (R140). -/
  | stackUnderflow
  /-- Code 4: a fetch with PC > 0xFFE (R124). -/
  | fetchOutOfRange
  /-- Code 5: Ex9E or ExA1 with Vx > 0xF (R164, R165). -/
  | keyIndexOutOfRange
  deriving DecidableEq, Repr

/-- `EXEC`, the execution state (R31). -/
inductive ExecState where
  /-- `RUNNING`: STEP executes instructions. -/
  | running
  /-- `AWAITING_KEY(t)`: the key-wait latch is set; `t` is the register that awaits a key. -/
  | awaitingKey (t : RegIx)
  /-- `HALTED(code)`: a fatal error ended the run. -/
  | halted (code : HaltCode)
  deriving DecidableEq, Repr

/-- The state of the engine: what R34 lists, and `draws`, which is the model's own. -/
structure State where
  /-- `V[0..15]` (R20). -/
  v : Vector Byte 16
  /-- `I` (R22): 16 bits that hold 12-bit values. -/
  i : Word
  /-- `PC` (R23). -/
  pc : Word
  /-- `SP` (R24): 5 bits, values 0 to 16. -/
  sp : BitVec 5
  /-- `STACK[0..15]` (R25), a store of its own. -/
  stack : Vector Word 16
  /-- `DT`, the delay timer (R26). -/
  dt : Byte
  /-- `ST`, the sound timer (R27). -/
  st : Byte
  /-- `MEM` (R33). -/
  mem : Memory
  /-- `KEY[0..15]` (R29): true = pressed. -/
  key : Vector Bool 16
  /-- `FB` (R30): true = set. -/
  fb : FrameBuffer
  /-- `EXEC` (R31). -/
  execState : ExecState
  /-- `TIMER_REF` (R28), the hidden reference instant, in nanoseconds (log entry 3). -/
  timerRef : Nat
  /-- The model's own: how many random bytes have been drawn; the next draw is `Config.randomByte draws` (log entry 2). -/
  draws : Nat
  deriving DecidableEq, Repr

/-- What stops the model. The engine's own errors are not here: R302 gives each of them a next state, `HALTED(code)`. -/
inductive Fault where
  /-- Raised by CALL and RET when SP is above 16, a value that SP never holds in a run (R24, R35) and for which the spec
  says to assume no behaviour (91_not_in_source.md N4). Safe: the model stops (log entry 5). -/
  | stackPointerIllegal
  deriving DecidableEq, Repr

/-- Why an instruction is refused. -/
inductive Refusal where
  /-- Raised by an arm of `exec` whose instruction has no meaning yet; no arm does so. Safe. -/
  | notModelled (mnemonic : String)
  deriving DecidableEq, Repr

/-- What an instruction or a step answers. -/
abbrev Result := Host.Outcome State Fault Refusal

/-- The state after RESET with the default `FONT` (R350): no program is loaded, memory reads as the font and zero. The
instant in `timerRef` and the count in `draws` are log entries 3 and 2. -/
def State.reset : State where
  v := Vector.replicate 16 0
  i := 0
  pc := 0x200
  sp := 0
  stack := Vector.replicate 16 0
  dt := 0
  st := 0
  mem := []
  key := Vector.replicate 16 false
  fb := Vector.replicate 64 (Vector.replicate 32 false)
  execState := .running
  timerRef := 0
  draws := 0

end Sys2Proof.Machine
end

