-- ==== Sys2Proof/Machine/Ops.lean ====
section
/-! DEFINITION. The named operations over memory (spec 20_memory.md R60 to R74), the registers (10_state.md R20 to R25)
and the halt (60_exceptions.md R302). Every read and write of the state by an instruction goes through these. -/

namespace Sys2Proof.Machine

/-! ### Memory -/

/-- What an address that memory does not list reads as: the reset contents with the default `FONT` (R62; log entry 1). -/
def Memory.base (a : Nat) : Byte := fontByte defaultFont a

/-- The listed byte of an address, if there is one. -/
def Memory.find : Memory → Nat → Option Byte
  | [], _ => none
  | (k, b) :: rest, a => if k = a then some b else Memory.find rest a

/-- `MemRead(a, 1)` (R10, R64): the byte at a 12-bit address; every address exists (R60, R63). -/
def Memory.read (m : Memory) (a : Addr) : Byte := (m.find a.toNat).getD (Memory.base a.toNat)

/-- Lists a byte at its place in the rising order of addresses. -/
def Memory.insert : Memory → Nat → Byte → Memory
  | [], a, b => [(a, b)]
  | (k, c) :: rest, a, b =>
    if a < k then (a, b) :: (k, c) :: rest
    else if a = k then (a, b) :: rest
    else (k, c) :: Memory.insert rest a b

/-- `MemWrite(a, 1, b)` (R10, R64): every address is writable (R63). Writing the byte that an unlisted address reads as
takes the entry out. -/
def Memory.write (m : Memory) (a : Addr) (b : Byte) : Memory :=
  if b = Memory.base a.toNat then m.filter (fun c => c.1 ≠ a.toNat) else m.insert a.toNat b

/-- Writes bytes at consecutive addresses, each address mod 4096 (R64, R65). -/
def Memory.writeBlock (m : Memory) (a : Addr) : List Byte → Memory
  | [] => m
  | b :: rest => Memory.writeBlock (m.write a b) (a + 1) rest

/-- Reads `n` bytes at consecutive addresses, each address mod 4096 (R64, R65). -/
def Memory.readBlock (m : Memory) (a : Addr) : Nat → List Byte
  | 0 => []
  | n + 1 => m.read a :: Memory.readBlock m (a + 1) n

/-- The canonical form of memory: addresses strictly rising, each below 4096, and no entry equal to what the address
reads as unlisted. -/
abbrev Memory.wf (m : Memory) : Prop :=
  m.Pairwise (fun c d => c.1 < d.1) ∧ ∀ c ∈ m, c.1 < memSize ∧ c.2 ≠ Memory.base c.1

/-! ### Registers -/

/-- `V[x]` (R10, R20). -/
def State.reg (s : State) (x : RegIx) : Byte := s.v[x]

/-- `V[x] <- b` (R10, R20): no register is hardwired. -/
def State.setReg (s : State) (x : RegIx) (b : Byte) : State := { s with v := s.v.set x b }

/-- The number of VF, the flag register (R21). -/
def vf : RegIx := 15

/-- `I <- a`: every write stores `a mod 4096` (R22). -/
def State.setI (s : State) (a : Nat) : State := { s with i := BitVec.ofNat 16 (a % 4096) }

/-- `PC <- a`: every write is reduced mod 65536 (R23). -/
def State.setPc (s : State) (a : Nat) : State := { s with pc := BitVec.ofNat 16 a }

/-- The SEQ advance, `PC <- PC + 2` (R126). -/
def State.advance (s : State) : State := s.setPc (s.pc.toNat + 2)

/-- The SKIP advance: `PC + 4` if the condition holds, else `PC + 2` (R126, R166). -/
def State.skipIf (s : State) (c : Bool) : State := s.setPc (s.pc.toNat + if c then 4 else 2)

/-- `DT <- b` (R26). -/
def State.setDt (s : State) (b : Byte) : State := { s with dt := b }

/-- `ST <- b` (R27). -/
def State.setSt (s : State) (b : Byte) : State := { s with st := b }

/-- `MemWrite` of consecutive bytes, as a change of the state (R64). -/
def State.store (s : State) (a : Addr) (bs : List Byte) : State := { s with mem := s.mem.writeBlock a bs }

/-- Writes V0 to Vx with the bytes `b 0` to `b x`, leaving the registers above x (R225). -/
def State.loadRegs (s : State) (x : RegIx) (b : Nat → Byte) : State :=
  { s with v := Vector.ofFn fun k : RegIx => if k ≤ x then b k.val else s.v[k] }

/-- Takes the next byte of the random input: each execution of Cxnn draws one (R191, R315; log entry 2). -/
def State.countDraw (s : State) : State := { s with draws := s.draws + 1 }

/-- `EXEC <- AWAITING_KEY(x)` (R283): sets the key-wait latch. -/
def State.awaitKey (s : State) (x : RegIx) : State := { s with execState := .awaitingKey x }

/-! ### The return stack -/

/-- `STACK[SP] <- a; SP <- SP + 1` (R142), for SP below 16. -/
def State.push (s : State) (h : s.sp.toNat < 16) (a : Nat) : State :=
  { s with stack := s.stack.set s.sp.toNat (BitVec.ofNat 16 a), sp := BitVec.ofNat 5 (s.sp.toNat + 1) }

/-- `SP <- SP - 1` (R140). -/
def State.popSp (s : State) : State := { s with sp := BitVec.ofNat 5 (s.sp.toNat - 1) }

/-- `STACK[SP - 1]`, the entry that RET reads (R25, R140), for SP in 1 to 16. -/
def State.stackTop (s : State) (h : 0 < s.sp.toNat ∧ s.sp.toNat ≤ 16) : Word := s.stack[s.sp.toNat - 1]

/-! ### The halt -/

/-- `raise Halt(code)` (R302): EXEC becomes `HALTED(code)`; nothing is saved, PC keeps its value and no other state
changes. This is the only exception entry of the hardware; there is no return from it but RESET (R300, R304). -/
def State.raiseHalt (s : State) (code : HaltCode) : State := { s with execState := .halted code }

end Sys2Proof.Machine
end

