-- ==== Sys2Proof/Machine/Flags.lean ====
section
/-! DEFINITION. The flag computations of the 8xy instructions (spec 10_state.md R21, 43_alu.md R183 to R193) and the
results beside them. Operands are taken as naturals, computed exactly and reduced mod 256 (R9, R192). -/

namespace Sys2Proof.Machine

/-- A flag as the byte that VF receives: 1 or 0 (R21). -/
def flagByte (c : Bool) : Byte := if c then 1 else 0

/-- The sum mod 256 (R181, R186, R192). -/
def addByte (a b : Byte) : Byte := BitVec.ofNat 8 (a.toNat + b.toNat)

/-- The carry of 8xy4: 1 if the sum is above 255 (R186). -/
def carryOf (a b : Byte) : Bool := 255 < a.toNat + b.toNat

/-- The difference mod 256 (R187, R189, R192). -/
def subByte (a b : Byte) : Byte := BitVec.ofInt 8 ((a.toNat : Int) - (b.toNat : Int))

/-- The no-borrow flag of 8xy5 and 8xy7: 1 if the minuend is at least the subtrahend (R187, R189, R192). -/
def noBorrowOf (a b : Byte) : Bool := b.toNat ≤ a.toNat

/-- A byte shifted right by 1 (R188). -/
def shiftRightOne (b : Byte) : Byte := BitVec.ofNat 8 (b.toNat / 2)

/-- The bit that a right shift moves out: bit 0 (R188). -/
def lowBit (b : Byte) : Bool := b.getLsbD 0

/-- A byte shifted left by 1, mod 256 (R190). -/
def shiftLeftOne (b : Byte) : Byte := BitVec.ofNat 8 (2 * b.toNat)

/-- The bit that a left shift moves out: bit 7 (R190). -/
def highBit (b : Byte) : Bool := b.getLsbD 7

/-- The end of every 8xy1 to 8xyE instruction: Vx receives the result, then VF the flag, then PC advances. The flag write
comes last, so it stays when x = F (R193, D9, C2). -/
def State.writeWithFlag (s : State) (x : RegIx) (result : Byte) (flag : Bool) : State :=
  ((s.setReg x result).setReg vf (flagByte flag)).advance

end Sys2Proof.Machine
end

