-- ==== Sys2Proof/Machine/Operands.lean ====
section
/-! DEFINITION. The operand forms: what an instruction computes from its fields and the registers before it writes
anything (spec 00_scope.md R11, 30_encoding.md R93, R94, 44_index_memory.md R226). -/

namespace Sys2Proof.Machine

/-- The effective address I plus an offset, mod 4096 (R64, R226): Fx33, Fx55, Fx65 and Dxyn. -/
def State.indexAddr (s : State) (k : Nat) : Addr := BitVec.ofNat 12 (s.i.toNat + k)

/-- The target of Bnnn, `(V0 + nnn) mod 4096`; the offset register is always V0 (R143). -/
def State.offsetTarget (s : State) (nnn : Addr) : Nat := ((s.reg 0).toNat + nnn.toNat) % 4096

/-- The return address of a CALL: its own address + 2, mod 65536 (R142, C1, D10). -/
def State.returnAddress (s : State) : Nat := (s.pc.toNat + 2) % 65536

/-- The address of the glyph of a digit, `(5 * vx) mod 4096`, for every byte (R222). -/
def glyphAddress (vx : Byte) : Nat := 5 * vx.toNat % 4096

/-- The decimal digits of a byte: hundreds, tens, ones (R223). -/
def decimalDigits (vx : Byte) : List Byte :=
  [BitVec.ofNat 8 (vx.toNat / 100), BitVec.ofNat 8 (vx.toNat / 10 % 10), BitVec.ofNat 8 (vx.toNat % 10)]

/-- The registers V0 to Vx in order: x + 1 bytes (R224). -/
def State.regsUpTo (s : State) (x : RegIx) : List Byte := s.v.toList.take (x.val + 1)

/-- The sprite rows that Dxyn reads: `n` bytes from I (R251, R252). -/
def State.spriteRows (s : State) (n : BitVec 4) : List Byte := s.mem.readBlock (s.indexAddr 0) n.toNat

/-- The start column of Dxyn, `Vx mod 64` (R251). -/
def startColumn (vx : Byte) : Nat := vx.toNat % 64

/-- The start row of Dxyn, `Vy mod 32` (R251). -/
def startRow (vy : Byte) : Nat := vy.toNat % 32

/-- The key that Vx names, none when Vx > 0xF (R164, R165). -/
def keyNumber (vx : Byte) : Option KeyIx := if h : vx.toNat < 16 then some ⟨vx.toNat, h⟩ else none

/-- `KEY[k]`: true when key k is pressed (R29). -/
def State.keyPressed (s : State) (k : KeyIx) : Bool := s.key[k]

/-- The random byte of this step (R315): a free value, drawn by the count of draws (log entry 2). -/
def State.randomByte (s : State) : Byte := Config.randomByte s.draws

end Sys2Proof.Machine
end

