-- ==== Sys2Proof/Machine/Alu.lean ====
section
/-! DEFINITION. The register file and ALU instructions (spec 43_alu.md R180 to R193): SEQ class. All operands are read
before the first write (R11, R193). -/

namespace Sys2Proof.Machine

/-- `LD Vx, nn` (R180). -/
def execLdImm (x : RegIx) (nn : Byte) (s : State) : Result := .next (s.setReg x nn).advance

/-- `ADD Vx, nn` (R181): the carry is discarded. -/
def execAddImm (x : RegIx) (nn : Byte) (s : State) : Result := .next (s.setReg x (addByte (s.reg x) nn)).advance

/-- `LD Vx, Vy` (R182). -/
def execLdReg (x y : RegIx) (s : State) : Result := .next (s.setReg x (s.reg y)).advance

/-- `OR Vx, Vy` (R183): VF is cleared. -/
def execOr (x y : RegIx) (s : State) : Result := .next (s.writeWithFlag x (s.reg x ||| s.reg y) false)

/-- `AND Vx, Vy` (R184): VF is cleared. -/
def execAnd (x y : RegIx) (s : State) : Result := .next (s.writeWithFlag x (s.reg x &&& s.reg y) false)

/-- `XOR Vx, Vy` (R185): VF is cleared. -/
def execXor (x y : RegIx) (s : State) : Result := .next (s.writeWithFlag x (s.reg x ^^^ s.reg y) false)

/-- `ADD Vx, Vy` (R186): VF is the carry. -/
def execAddReg (x y : RegIx) (s : State) : Result :=
  .next (s.writeWithFlag x (addByte (s.reg x) (s.reg y)) (carryOf (s.reg x) (s.reg y)))

/-- `SUB Vx, Vy` (R187): VF is 1 when no borrow occurs. -/
def execSub (x y : RegIx) (s : State) : Result :=
  .next (s.writeWithFlag x (subByte (s.reg x) (s.reg y)) (noBorrowOf (s.reg x) (s.reg y)))

/-- `SHR Vx, Vy` (R188): the source is Vy; VF is the bit shifted out. -/
def execShr (x y : RegIx) (s : State) : Result :=
  .next (s.writeWithFlag x (shiftRightOne (s.reg y)) (lowBit (s.reg y)))

/-- `SUBN Vx, Vy` (R189): Vy minus Vx; VF is 1 when no borrow occurs. -/
def execSubn (x y : RegIx) (s : State) : Result :=
  .next (s.writeWithFlag x (subByte (s.reg y) (s.reg x)) (noBorrowOf (s.reg y) (s.reg x)))

/-- `SHL Vx, Vy` (R190): the source is Vy; VF is the bit shifted out. -/
def execShl (x y : RegIx) (s : State) : Result :=
  .next (s.writeWithFlag x (shiftLeftOne (s.reg y)) (highBit (s.reg y)))

/-- What `RND Vx, nn` does with the byte `r` that the provider supplies (R191): Vx receives `r & nn`, and the byte is
drawn whatever `nn` is. -/
def writeRandom (x : RegIx) (nn r : Byte) (s : State) : State := ((s.setReg x (r &&& nn)).countDraw).advance

/-- `RND Vx, nn` (R191, R315). -/
def execRnd (x : RegIx) (nn : Byte) (s : State) : Result := .next (writeRandom x nn s.randomByte s)

end Sys2Proof.Machine
end

