-- ==== Sys2Proof/Machine/Control.lean ====
section
/-! DEFINITION. The control transfers (spec 41_control_transfer.md R140 to R144): XFER class, no PC advance (R126). -/

namespace Sys2Proof.Machine

/-- `RET` (R140). The check comes before any write. SP above 16 is no value of a run (R24, N4; log entry 5). -/
def execRet (s : State) : Result :=
  if s.sp.toNat = 0 then .next (s.raiseHalt .stackUnderflow)
  else if h : 0 < s.sp.toNat ∧ s.sp.toNat ≤ 16 then .next (s.popSp.setPc (s.stackTop h).toNat)
  else .fault .stackPointerIllegal

/-- `JP nnn` (R141). -/
def execJp (nnn : Addr) (s : State) : Result := .next (s.setPc nnn.toNat)

/-- `CALL nnn` (R142): pushes the address after the CALL (C1, D10). SP above 16: as in `execRet`. -/
def execCall (nnn : Addr) (s : State) : Result :=
  if s.sp.toNat = 16 then .next (s.raiseHalt .stackOverflow)
  else if h : s.sp.toNat < 16 then .next ((s.push h s.returnAddress).setPc nnn.toNat)
  else .fault .stackPointerIllegal

/-- `JP V0, nnn` (R143). -/
def execJpV0 (nnn : Addr) (s : State) : Result := .next (s.setPc (s.offsetTarget nnn))

end Sys2Proof.Machine
end

