-- ==== Sys2Proof/Machine/Sprite.lean ====
section
/-! DEFINITION. The framebuffer operations and the sprite drawer with its collision detector (spec 45_display.md R250 to
R254). -/

namespace Sys2Proof.Machine

/-- `FB[px][py]` (R30). -/
def FrameBuffer.pixel (fb : FrameBuffer) (px : Fin 64) (py : Fin 32) : Bool := fb[px][py]

/-- `FB[px][py] <- FB[px][py] ^ 1` (R251). -/
def FrameBuffer.flip (fb : FrameBuffer) (px : Fin 64) (py : Fin 32) : FrameBuffer :=
  fb.set px (fb[px].set py (!fb[px][py]))

/-- Every pixel unset (R250). -/
def FrameBuffer.clear : FrameBuffer := Vector.replicate 64 (Vector.replicate 32 false)

/-- A draw in progress: the framebuffer and whether a collision has happened (R251, R254). -/
structure Drawing where
  fb : FrameBuffer
  hit : Bool
  deriving DecidableEq, Repr

/-- One sprite bit at column `px` and row `py`: a 0 bit, and a position outside the 64×32 frame, changes nothing; a 1 bit
flips its pixel and is a collision if the pixel was set (R251, R253, R254). -/
def drawBit (px py : Nat) (bit : Bool) (d : Drawing) : Drawing :=
  if h : bit = true ∧ px < 64 ∧ py < 32 then
    { fb := d.fb.flip ⟨px, h.2.1⟩ ⟨py, h.2.2⟩, hit := d.hit || d.fb.pixel ⟨px, h.2.1⟩ ⟨py, h.2.2⟩ }
  else d

/-- The bit of a sprite row that column `c` of the sprite shows: bit 7 is the leftmost (R252, D17; log entry 7). -/
def spriteBit (row : Byte) (c : Nat) : Bool := row.getLsbD (7 - c)

/-- One sprite row, columns c = 0 to 7 at `x0 + c` (R251). -/
def drawRow (x0 py : Nat) (row : Byte) (d : Drawing) : Drawing :=
  (List.range 8).foldl (fun d c => drawBit (x0 + c) py (spriteBit row c) d) d

/-- The sprite rows in order, from row `py` down (R251). -/
def drawRows (x0 : Nat) : Nat → List Byte → Drawing → Drawing
  | _, [], d => d
  | py, row :: rest, d => drawRows x0 (py + 1) rest (drawRow x0 py row d)

/-- Replaces the framebuffer. -/
def State.setFb (s : State) (fb : FrameBuffer) : State := { s with fb := fb }

end Sys2Proof.Machine
end

