-- ==== Sys2Proof/Machine/Display.lean ====
section
/-! DEFINITION. The display instructions (spec 45_display.md R250 to R255): SEQ class. -/

namespace Sys2Proof.Machine

/-- `CLS` (R250): VF is not touched. -/
def execCls (s : State) : Result := .next (s.setFb FrameBuffer.clear).advance

/-- `DRW Vx, Vy, n` (R251): the position and the rows are read first; VF receives the collision last; I is not changed. -/
def execDrw (x y : RegIx) (n : BitVec 4) (s : State) : Result :=
  let d := drawRows (startColumn (s.reg x)) (startRow (s.reg y)) (s.spriteRows n) { fb := s.fb, hit := false }
  .next ((s.setFb d.fb).setReg vf (flagByte d.hit)).advance

end Sys2Proof.Machine
end

