-- ==== Sys2Proof/Machine/IndexMemory.lean ====
section
/-! DEFINITION. The index register and memory instructions (spec 44_index_memory.md R220 to R226): SEQ class, no flag. -/

namespace Sys2Proof.Machine

/-- `LD I, nnn` (R220). -/
def execLdI (nnn : Addr) (s : State) : Result := .next (s.setI nnn.toNat).advance

/-- `ADD I, Vx` (R221): mod 4096, no flag. -/
def execAddIVx (x : RegIx) (s : State) : Result := .next (s.setI (s.i.toNat + (s.reg x).toNat)).advance

/-- `LD F, Vx` (R222). -/
def execLdFVx (x : RegIx) (s : State) : Result := .next (s.setI (glyphAddress (s.reg x))).advance

/-- `LD B, Vx` (R223): I is not changed. -/
def execLdBVx (x : RegIx) (s : State) : Result :=
  .next (s.store (s.indexAddr 0) (decimalDigits (s.reg x))).advance

/-- `LD [I], Vx` (R224): V0 to Vx at the old I plus 0 to x, then I advances by x + 1 (C3). -/
def execLdMIVx (x : RegIx) (s : State) : Result :=
  .next ((s.store (s.indexAddr 0) (s.regsUpTo x)).setI (s.i.toNat + x.val + 1)).advance

/-- `LD Vx, [I]` (R225): V0 to Vx from the old I plus 0 to x, then I advances by x + 1. -/
def execLdVxMI (x : RegIx) (s : State) : Result :=
  .next ((s.loadRegs x fun k => s.mem.read (s.indexAddr k)).setI (s.i.toNat + x.val + 1)).advance

end Sys2Proof.Machine
end

