-- ==== Sys2Proof/Machine/Skips.lean ====
section
/-! DEFINITION. The conditional skips (spec 42_skips.md R160 to R166): SKIP class, no flag and no register written. -/

namespace Sys2Proof.Machine

/-- `SE Vx, nn` (R160). -/
def execSeImm (x : RegIx) (nn : Byte) (s : State) : Result := .next (s.skipIf (s.reg x = nn))

/-- `SNE Vx, nn` (R161). -/
def execSneImm (x : RegIx) (nn : Byte) (s : State) : Result := .next (s.skipIf (s.reg x ≠ nn))

/-- `SE Vx, Vy` (R162). -/
def execSeReg (x y : RegIx) (s : State) : Result := .next (s.skipIf (s.reg x = s.reg y))

/-- `SNE Vx, Vy` (R163). -/
def execSneReg (x y : RegIx) (s : State) : Result := .next (s.skipIf (s.reg x ≠ s.reg y))

/-- The key skips: halt when Vx names no key, else skip if the key's state is `pressed` (R164, R165, D7). -/
def skipOnKey (x : RegIx) (pressed : Bool) (s : State) : State :=
  match keyNumber (s.reg x) with
  | some k => s.skipIf (s.keyPressed k == pressed)
  | none => s.raiseHalt .keyIndexOutOfRange

/-- `SKP Vx` (R164). -/
def execSkp (x : RegIx) (s : State) : Result := .next (skipOnKey x true s)

/-- `SKNP Vx` (R165). -/
def execSknp (x : RegIx) (s : State) : Result := .next (skipOnKey x false s)

end Sys2Proof.Machine
end

