-- ==== Sys2Proof/Machine/TimersKeys.lean ====
section
/-! DEFINITION. Timer access and the key wait (spec 46_timers_keys.md R280 to R285). -/

namespace Sys2Proof.Machine

/-- `LD Vx, DT` (R280). -/
def execLdVxDt (x : RegIx) (s : State) : Result := .next (s.setReg x s.dt).advance

/-- `LD Vx, K` (R283), WAIT class: sets the key-wait latch; PC and Vx are not written now. -/
def execLdVxK (x : RegIx) (s : State) : Result := .next (s.awaitKey x)

/-- `LD DT, Vx` (R281): TIMER_REF is not touched. -/
def execLdDtVx (x : RegIx) (s : State) : Result := .next (s.setDt (s.reg x)).advance

/-- `LD ST, Vx` (R282). -/
def execLdStVx (x : RegIx) (s : State) : Result := .next (s.setSt (s.reg x)).advance

end Sys2Proof.Machine
end

