-- ==== Sys2Proof/Syntax.lean ====
section
/-! DEFINITION. The 34 instructions (spec 30_encoding.md R97), one constructor a row of `opcode_table.json`, in the
order of the opcode map. The operand types are the widths of R91 and R93, so every term of `Instr` has operands that its
encoding admits. -/

namespace Sys2Proof

/-- An instruction of the base CHIP-8 set (R2, R97). The fields are those of R91: `x` and `y` are register numbers, `n` a
4-bit count, `nn` a byte and `nnn` a 12-bit address. -/
inductive Instr where
  /-- 00E0 `CLS` (R250) -/
  | cls
  /-- 00EE `RET` (R140) -/
  | ret
  /-- 1nnn `JP nnn` (R141) -/
  | jp (nnn : Addr)
  /-- 2nnn `CALL nnn` (R142) -/
  | call (nnn : Addr)
  /-- 3xnn `SE Vx, nn` (R160) -/
  | seImm (x : RegIx) (nn : Byte)
  /-- 4xnn `SNE Vx, nn` (R161) -/
  | sneImm (x : RegIx) (nn : Byte)
  /-- 5xy0 `SE Vx, Vy` (R162) -/
  | seReg (x y : RegIx)
  /-- 6xnn `LD Vx, nn` (R180) -/
  | ldImm (x : RegIx) (nn : Byte)
  /-- 7xnn `ADD Vx, nn` (R181) -/
  | addImm (x : RegIx) (nn : Byte)
  /-- 8xy0 `LD Vx, Vy` (R182) -/
  | ldReg (x y : RegIx)
  /-- 8xy1 `OR Vx, Vy` (R183) -/
  | or (x y : RegIx)
  /-- 8xy2 `AND Vx, Vy` (R184) -/
  | and (x y : RegIx)
  /-- 8xy3 `XOR Vx, Vy` (R185) -/
  | xor (x y : RegIx)
  /-- 8xy4 `ADD Vx, Vy` (R186) -/
  | addReg (x y : RegIx)
  /-- 8xy5 `SUB Vx, Vy` (R187) -/
  | sub (x y : RegIx)
  /-- 8xy6 `SHR Vx, Vy` (R188) -/
  | shr (x y : RegIx)
  /-- 8xy7 `SUBN Vx, Vy` (R189) -/
  | subn (x y : RegIx)
  /-- 8xyE `SHL Vx, Vy` (R190) -/
  | shl (x y : RegIx)
  /-- 9xy0 `SNE Vx, Vy` (R163) -/
  | sneReg (x y : RegIx)
  /-- Annn `LD I, nnn` (R220) -/
  | ldI (nnn : Addr)
  /-- Bnnn `JP V0, nnn` (R143) -/
  | jpV0 (nnn : Addr)
  /-- Cxnn `RND Vx, nn` (R191) -/
  | rnd (x : RegIx) (nn : Byte)
  /-- Dxyn `DRW Vx, Vy, n` (R251) -/
  | drw (x y : RegIx) (n : BitVec 4)
  /-- Ex9E `SKP Vx` (R164) -/
  | skp (x : RegIx)
  /-- ExA1 `SKNP Vx` (R165) -/
  | sknp (x : RegIx)
  /-- Fx07 `LD Vx, DT` (R280) -/
  | ldVxDt (x : RegIx)
  /-- Fx0A `LD Vx, K` (R283) -/
  | ldVxK (x : RegIx)
  /-- Fx15 `LD DT, Vx` (R281) -/
  | ldDtVx (x : RegIx)
  /-- Fx18 `LD ST, Vx` (R282) -/
  | ldStVx (x : RegIx)
  /-- Fx1E `ADD I, Vx` (R221) -/
  | addIVx (x : RegIx)
  /-- Fx29 `LD F, Vx` (R222) -/
  | ldFVx (x : RegIx)
  /-- Fx33 `LD B, Vx` (R223) -/
  | ldBVx (x : RegIx)
  /-- Fx55 `LD [I], Vx` (R224) -/
  | ldMIVx (x : RegIx)
  /-- Fx65 `LD Vx, [I]` (R225) -/
  | ldVxMI (x : RegIx)
  deriving DecidableEq, Repr

/-- The row of the opcode map that an instruction belongs to, by the internal name of R97. -/
def Instr.mnemonic : Instr → String
  | .cls => "CLS"
  | .ret => "RET"
  | .jp _ => "JP"
  | .call _ => "CALL"
  | .seImm _ _ => "SE_imm"
  | .sneImm _ _ => "SNE_imm"
  | .seReg _ _ => "SE_reg"
  | .ldImm _ _ => "LD_imm"
  | .addImm _ _ => "ADD_imm"
  | .ldReg _ _ => "LD_reg"
  | .or _ _ => "OR"
  | .and _ _ => "AND"
  | .xor _ _ => "XOR"
  | .addReg _ _ => "ADD_reg"
  | .sub _ _ => "SUB"
  | .shr _ _ => "SHR"
  | .subn _ _ => "SUBN"
  | .shl _ _ => "SHL"
  | .sneReg _ _ => "SNE_reg"
  | .ldI _ => "LD_I"
  | .jpV0 _ => "JP_V0"
  | .rnd _ _ => "RND"
  | .drw _ _ _ => "DRW"
  | .skp _ => "SKP"
  | .sknp _ => "SKNP"
  | .ldVxDt _ => "LD_Vx_DT"
  | .ldVxK _ => "LD_Vx_K"
  | .ldDtVx _ => "LD_DT_Vx"
  | .ldStVx _ => "LD_ST_Vx"
  | .addIVx _ => "ADD_I_Vx"
  | .ldFVx _ => "LD_F_Vx"
  | .ldBVx _ => "LD_B_Vx"
  | .ldMIVx _ => "LD_mI_Vx"
  | .ldVxMI _ => "LD_Vx_mI"

end Sys2Proof
end

