-- ==== Sys2Proof/Decode.lean ====
section
/-! DEFINITION. The decoder, total over 16-bit words and over byte lists (spec 30_encoding.md R90 to R101), and the
encoder beside it. -/

namespace Sys2Proof

/-- `op` = ins[15:12], the opcode family (R91). -/
def fieldOp (w : Word) : BitVec 4 := w.extractLsb' 12 4

/-- `x` = ins[11:8], the first register selector (R91). -/
def fieldX (w : Word) : RegIx := (w.extractLsb' 8 4).toFin

/-- `y` = ins[7:4], the second register selector (R91). -/
def fieldY (w : Word) : RegIx := (w.extractLsb' 4 4).toFin

/-- `n` = ins[3:0], the nibble immediate or subfamily (R91). -/
def fieldN (w : Word) : BitVec 4 := w.extractLsb' 0 4

/-- `nn` = ins[7:0], the byte immediate or subfamily (R91). -/
def fieldNN (w : Word) : Byte := w.extractLsb' 0 8

/-- `nnn` = ins[11:0], the address immediate (R91). -/
def fieldNNN (w : Word) : Addr := w.extractLsb' 0 12

/-- What decoding answers: an instruction, or a rejection by name. -/
inductive Decoded where
  /-- The word is this instruction. -/
  | instr (i : Instr)
  /-- The word matches no row of R97: the `Invalid` of R96. -/
  | invalid (w : Word)
  /-- Fewer than the two bytes of an instruction were given (R90). The machine always gives two. -/
  | truncated
  deriving DecidableEq, Repr

/-- Family 0 is selected by the whole word (R95, R96). -/
def decodeFamily0 (w : Word) : Decoded :=
  if w = 0x00E0 then .instr .cls
  else if w = 0x00EE then .instr .ret
  else .invalid w

/-- Family 8 is selected by `n` (R95, R96). -/
def decodeFamily8 (w : Word) : Decoded :=
  match (fieldN w).toNat with
  | 0x0 => .instr (.ldReg (fieldX w) (fieldY w))
  | 0x1 => .instr (.or (fieldX w) (fieldY w))
  | 0x2 => .instr (.and (fieldX w) (fieldY w))
  | 0x3 => .instr (.xor (fieldX w) (fieldY w))
  | 0x4 => .instr (.addReg (fieldX w) (fieldY w))
  | 0x5 => .instr (.sub (fieldX w) (fieldY w))
  | 0x6 => .instr (.shr (fieldX w) (fieldY w))
  | 0x7 => .instr (.subn (fieldX w) (fieldY w))
  | 0xE => .instr (.shl (fieldX w) (fieldY w))
  | _ => .invalid w

/-- Family E is selected by `nn` (R95, R96). -/
def decodeFamilyE (w : Word) : Decoded :=
  if fieldNN w = 0x9E then .instr (.skp (fieldX w))
  else if fieldNN w = 0xA1 then .instr (.sknp (fieldX w))
  else .invalid w

/-- Family F is selected by `nn` (R95, R96). -/
def decodeFamilyF (w : Word) : Decoded :=
  if fieldNN w = 0x07 then .instr (.ldVxDt (fieldX w))
  else if fieldNN w = 0x0A then .instr (.ldVxK (fieldX w))
  else if fieldNN w = 0x15 then .instr (.ldDtVx (fieldX w))
  else if fieldNN w = 0x18 then .instr (.ldStVx (fieldX w))
  else if fieldNN w = 0x1E then .instr (.addIVx (fieldX w))
  else if fieldNN w = 0x29 then .instr (.ldFVx (fieldX w))
  else if fieldNN w = 0x33 then .instr (.ldBVx (fieldX w))
  else if fieldNN w = 0x55 then .instr (.ldMIVx (fieldX w))
  else if fieldNN w = 0x65 then .instr (.ldVxMI (fieldX w))
  else .invalid w

/-- The decode function of R96: total, strict (R95, D8: exactly the patterns of R97), reading only the word (R100). -/
def decode (w : Word) : Decoded :=
  match (fieldOp w).toNat with
  | 0x0 => decodeFamily0 w
  | 0x1 => .instr (.jp (fieldNNN w))
  | 0x2 => .instr (.call (fieldNNN w))
  | 0x3 => .instr (.seImm (fieldX w) (fieldNN w))
  | 0x4 => .instr (.sneImm (fieldX w) (fieldNN w))
  | 0x5 => if fieldN w = 0 then .instr (.seReg (fieldX w) (fieldY w)) else .invalid w
  | 0x6 => .instr (.ldImm (fieldX w) (fieldNN w))
  | 0x7 => .instr (.addImm (fieldX w) (fieldNN w))
  | 0x8 => decodeFamily8 w
  | 0x9 => if fieldN w = 0 then .instr (.sneReg (fieldX w) (fieldY w)) else .invalid w
  | 0xA => .instr (.ldI (fieldNNN w))
  | 0xB => .instr (.jpV0 (fieldNNN w))
  | 0xC => .instr (.rnd (fieldX w) (fieldNN w))
  | 0xD => .instr (.drw (fieldX w) (fieldY w) (fieldN w))
  | 0xE => decodeFamilyE w
  | 0xF => decodeFamilyF w
  | _ => .invalid w

/-- The word that two consecutive bytes form: big-endian, the first byte in ins[15:8] (R68). -/
def wordOfBytes (hi lo : Byte) : Word := hi ++ lo

/-- The two bytes of a word in the order they lie in memory (R68). -/
def bytesOfWord (w : Word) : List Byte := [w.extractLsb' 8 8, w.extractLsb' 0 8]

/-- Decoding of any byte list: its first two bytes form the word (R90, R68); what follows them is not looked at. -/
def decodeBytes : List Byte → Decoded
  | hi :: lo :: _ => decode (wordOfBytes hi lo)
  | _ => .truncated

/-- Format A: op:4 nnn:12 (R92). -/
def formatA (op : BitVec 4) (nnn : Addr) : Word := op ++ nnn

/-- Formats XNN and XK: op:4 x:4 nn:8, where `nn` is an operand or the subfamily (R92). -/
def formatXNN (op : BitVec 4) (x : RegIx) (nn : Byte) : Word := op ++ BitVec.ofFin (w := 4) x ++ nn

/-- Formats XY and XYN: op:4 x:4 y:4 n:4, where `n` is an operand or the subfamily (R92). -/
def formatXYN (op : BitVec 4) (x y : RegIx) (n : BitVec 4) : Word :=
  op ++ BitVec.ofFin (w := 4) x ++ BitVec.ofFin (w := 4) y ++ n

/-- The encoder: the fixed bits of the instruction's row of R97 with its fields at their R91 places (R101). -/
def encode : Instr → Word
  | .cls => 0x00E0
  | .ret => 0x00EE
  | .jp nnn => formatA 0x1 nnn
  | .call nnn => formatA 0x2 nnn
  | .seImm x nn => formatXNN 0x3 x nn
  | .sneImm x nn => formatXNN 0x4 x nn
  | .seReg x y => formatXYN 0x5 x y 0x0
  | .ldImm x nn => formatXNN 0x6 x nn
  | .addImm x nn => formatXNN 0x7 x nn
  | .ldReg x y => formatXYN 0x8 x y 0x0
  | .or x y => formatXYN 0x8 x y 0x1
  | .and x y => formatXYN 0x8 x y 0x2
  | .xor x y => formatXYN 0x8 x y 0x3
  | .addReg x y => formatXYN 0x8 x y 0x4
  | .sub x y => formatXYN 0x8 x y 0x5
  | .shr x y => formatXYN 0x8 x y 0x6
  | .subn x y => formatXYN 0x8 x y 0x7
  | .shl x y => formatXYN 0x8 x y 0xE
  | .sneReg x y => formatXYN 0x9 x y 0x0
  | .ldI nnn => formatA 0xA nnn
  | .jpV0 nnn => formatA 0xB nnn
  | .rnd x nn => formatXNN 0xC x nn
  | .drw x y n => formatXYN 0xD x y n
  | .skp x => formatXNN 0xE x 0x9E
  | .sknp x => formatXNN 0xE x 0xA1
  | .ldVxDt x => formatXNN 0xF x 0x07
  | .ldVxK x => formatXNN 0xF x 0x0A
  | .ldDtVx x => formatXNN 0xF x 0x15
  | .ldStVx x => formatXNN 0xF x 0x18
  | .addIVx x => formatXNN 0xF x 0x1E
  | .ldFVx x => formatXNN 0xF x 0x29
  | .ldBVx x => formatXNN 0xF x 0x33
  | .ldMIVx x => formatXNN 0xF x 0x55
  | .ldVxMI x => formatXNN 0xF x 0x65

/-- The instruction word whose bits, numbered as `opcode_table.json` numbers them, are `w`: one 16-bit word, bits at or
above `nbits` zero. -/
def tableWord (nbits w : Nat) : Word := BitVec.ofNat 16 (w % 2 ^ nbits)

/-- The decoder on a word of the opcode table, laid out in memory order first (R68). -/
def decodeTableWord (nbits w : Nat) : Option Instr :=
  match decodeBytes (bytesOfWord (tableWord nbits w)) with
  | .instr i => some i
  | .invalid _ => none
  | .truncated => none

end Sys2Proof
end

