-- ==== Sys2Proof/Machine/Fetch.lean ====
section
/-! DEFINITION. Instruction fetch (spec 40_step.md R120, R121, R123, R124) and placing a word where it is fetched. -/

namespace Sys2Proof.Machine

/-- The word at PC: two consecutive bytes, big-endian (R68, R121). Used for PC up to 0xFFE, where PC + 1 exists. -/
def State.fetchWord (s : State) : Word :=
  wordOfBytes (s.mem.read (BitVec.ofNat 12 s.pc.toNat)) (s.mem.read (BitVec.ofNat 12 (s.pc.toNat + 1)))

/-- What a fetch answers: the instruction to execute, or the error of the first check that fails, the fetch range before
decode (R120, R303). -/
inductive Fetched where
  | instr (i : Instr)
  | error (code : HaltCode)
  deriving DecidableEq, Repr

/-- Fetch and decode (R120): no wrap past 0xFFF (R124, D4), and an unrecognised word is an error (R123). -/
def State.fetch (s : State) : Fetched :=
  if lastFetch < s.pc.toNat then .error .fetchOutOfRange
  else match decode s.fetchWord with
    | .instr i => .instr i
    | .invalid _ => .error .invalidOpcode
    | .truncated => .error .invalidOpcode

/-- A PC from which a word can be fetched: PC itself, or the entry point 0x200 when PC is above 0xFFE (log entry 12). -/
def State.fetchablePc (s : State) : Word := if lastFetch < s.pc.toNat then BitVec.ofNat 16 progBase else s.pc

/-- The state with the word `w` at PC in memory, and EXEC and PC such that the next STEP fetches it (log entry 12). -/
def State.placeWord (s : State) (w : Word) : State :=
  { s with
    pc := s.fetchablePc
    execState := .running
    mem := s.mem.writeBlock (BitVec.ofNat 12 s.fetchablePc.toNat) (bytesOfWord w) }

end Sys2Proof.Machine
end

