-- ==== Sys2Proof/Machine/Step.lean ====
section
/-! DEFINITION. STEP, the fetch-decode-execute cycle (spec 40_step.md R120 to R128). -/

namespace Sys2Proof.Machine

/-- STEP (R120). Outside RUNNING it changes nothing (R125). A failed fetch or decode halts (R123, R124); otherwise the
instruction runs. -/
def step (s : State) : Host.Outcome State Fault Refusal :=
  match s.execState with
  | .halted _ => .next s
  | .awaitingKey _ => .next s
  | .running =>
    match s.fetch with
    | .error code => .next (s.raiseHalt code)
    | .instr i => exec i s

/-- `s` with the instruction word `w` (numbered as the opcode table numbers bits) placed where `step` fetches next. -/
def State.withFetchWord (s : State) (nbits w : Nat) : State := s.placeWord (tableWord nbits w)

end Sys2Proof.Machine
end

