-- ==== Sys2Proof/Machine/HostOps.lean ====
section
/-! DEFINITION. The host operations other than STEP (spec 60_exceptions.md R308 to R314, 46_timers_keys.md R284,
70_reset_and_hazards.md R350) and the outputs the host reads (10_state.md R32, 60_exceptions.md R313, R316). -/

namespace Sys2Proof.Machine

/-! ### RESET -/

/-- The memory after construction with a given `FONT` (R62), in canonical form: the bytes that differ from the default. -/
def Memory.ofFont (f : Font) : Memory :=
  ((List.range fontSize).map fun a => (a, fontByte f a)).filter fun c => c.2 ≠ Memory.base c.1

/-- Construction (R350) with the parameters `p` at the instant `now`; `draws` is where the random input stands. -/
def State.construct (p : Params) (now draws : Nat) : State :=
  { State.reset with mem := Memory.ofFont p.font, timerRef := now, draws := draws }

/-- RESET (R310, R350, R351): the same state whatever came before. The random input is outside the machine, so RESET does
not rewind it (log entry 13). -/
def hostReset (p : Params) (now : Nat) (s : State) : State := State.construct p now s.draws

/-! ### LOAD -/

/-- LOAD (R311, D21): copies the image to 0x200 if it has at most 3584 bytes, else changes nothing. -/
def hostLoad (bytes : List Byte) (s : State) : State :=
  if bytes.length ≤ progMax then s.store (BitVec.ofNat 12 progBase) bytes else s

/-! ### TIMER_POLL -/

/-- A timer counts down toward 0 and never below (R26, R27, R312). -/
def countDown (t : Byte) : Byte := BitVec.ofNat 8 (t.toNat - 1)

/-- TIMER_POLL (R312, D13): when a period has elapsed, both timers count down once and TIMER_REF becomes now. It works in
every execution state. -/
def hostTimerPoll (elapsed : Bool) (now : Nat) (s : State) : State :=
  if elapsed then { s with dt := countDown s.dt, st := countDown s.st, timerRef := now } else s

/-- Whether at least one 60 Hz period lies between TIMER_REF and `now` (R312), in nanoseconds (log entry 3). -/
def State.periodElapsed (s : State) (now : Nat) : Bool := nanosPerSecond ≤ timerHz * (now - s.timerRef)

/-- The TIMER_POLL of a host whose `elapsed` follows its clock (R312: `elapsed` is an input, and this is one way a host
chooses it). -/
def hostTimerPollAt (now : Nat) (s : State) : State := hostTimerPoll (s.periodElapsed now) now s

/-! ### SET_KEYS and KEY_RELEASE -/

/-- SET_KEYS (R314): bit i of the vector is key i; the key-wait latch is not resolved. -/
def hostSetKeys (k : BitVec 16) (s : State) : State := { s with key := Vector.ofFn fun i : KeyIx => k.getLsbD i.val }

/-- KEY_RELEASE (R284): resolves the key-wait latch, and has no effect outside it (D12). -/
def hostKeyRelease (k : KeyIx) (s : State) : State :=
  match s.execState with
  | .awaitingKey t => { (s.setReg t (BitVec.ofNat 8 k.val)).advance with execState := .running }
  | .running => s
  | .halted _ => s

/-! ### Outputs -/

/-- The number of a halt code (R301). -/
def HaltCode.number : HaltCode → Nat
  | .invalidOpcode => 1
  | .stackOverflow => 2
  | .stackUnderflow => 3
  | .fetchOutOfRange => 4
  | .keyIndexOutOfRange => 5

/-- STATUS[1:0], STATE (R32). -/
def ExecState.stateField : ExecState → BitVec 2
  | .running => 0
  | .awaitingKey _ => 1
  | .halted _ => 2

/-- STATUS[5:2], ARG (R32). -/
def ExecState.argField : ExecState → BitVec 4
  | .running => 0
  | .awaitingKey t => BitVec.ofNat 4 t.val
  | .halted code => BitVec.ofNat 4 code.number

/-- STATUS, the 8-bit output derived from EXEC; bits 7:6 are reserved and always 0 (R32). -/
def State.status (s : State) : Byte := (0 : BitVec 2) ++ s.execState.argField ++ s.execState.stateField

/-- TONE, the level `ST != 0` (R313, D14). -/
def State.tone (s : State) : Bool := s.st ≠ 0

/-- FB, the 2048-bit flat output: pixel (px, py) is bit `py * 64 + px` (R316, D18). -/
def State.fbPort (s : State) : Vector Bool 2048 :=
  Vector.ofFn fun k : Fin 2048 =>
    have hx : k.val % 64 < 64 := by omega
    have hy : k.val / 64 < 32 := by omega
    s.fb[k.val % 64][k.val / 64]

end Sys2Proof.Machine
end

