-- ==== Sys2Proof/Machine/Drive.lean ====
section
/-! DEFINITION. How the host drives the block: the six operations, their results, and runs of any finite sequence of them
by a host that keeps its duties (spec 00_scope.md R15, 60_exceptions.md R308, R318, R319, D1, D29). -/

namespace Sys2Proof.Machine

/-- A host operation (R308), with the inputs the environment chooses: the image, the `elapsed` bit, the instant, the key
vector, the released key. -/
inductive Op where
  /-- RESET at the instant `now` (R310). -/
  | reset (now : Nat)
  /-- LOAD of an image (R311). -/
  | load (bytes : List Byte)
  /-- STEP (R120). -/
  | step
  /-- TIMER_POLL at the instant `now` (R312). -/
  | timerPoll (elapsed : Bool) (now : Nat)
  /-- SET_KEYS (R314). -/
  | setKeys (k : BitVec 16)
  /-- KEY_RELEASE of key `k` (R284). -/
  | keyRelease (k : KeyIx)
  deriving DecidableEq, Repr

/-- What an operation reports to the host (R120, R308). -/
inductive Reply where
  /-- No result. -/
  | none
  /-- STEP completed an instruction. -/
  | ok
  /-- STEP entered the key wait, or did nothing in it. -/
  | waiting
  /-- STEP halted, or did nothing in HALTED. -/
  | halted (code : HaltCode)
  /-- LOAD placed the image. -/
  | loadOk
  /-- LOAD refused the image. -/
  | programTooLarge
  deriving DecidableEq, Repr

/-- What STEP returns, from the EXEC it leaves (R120, R125). -/
def State.stepReply (s : State) : Reply :=
  match s.execState with
  | .running => .ok
  | .awaitingKey _ => .waiting
  | .halted code => .halted code

/-- What LOAD returns (R311). -/
def loadReply (bytes : List Byte) : Reply := if bytes.length ≤ progMax then .loadOk else .programTooLarge

/-- One host operation, for an engine with the parameters `p` (R308): atomic, in any state. -/
def perform (p : Params) (op : Op) (s : State) : Host.Outcome (State × Reply) Fault Refusal :=
  match op with
  | .reset now => .next (hostReset p now s, .none)
  | .load bytes => .next (hostLoad bytes s, loadReply bytes)
  | .step =>
    match step s with
    | .next t => .next (t, t.stepReply)
    | .fault r => .fault r
    | .refused r => .refused r
  | .timerPoll elapsed now => .next (hostTimerPoll elapsed now s, .none)
  | .setKeys k => .next (hostSetKeys k s, .none)
  | .keyRelease k => .next (hostKeyRelease k s, .none)

/-- Any finite sequence of host operations, one at a time in the host's order (R15, R318), by a host that keeps no duty: what
the engine takes, not what a host of R319 does. -/
def runAnyOps (p : Params) : List Op → State → Result
  | [], s => .next s
  | op :: rest, s =>
    match perform p op s with
    | .next (t, _) => runAnyOps p rest t
    | .fault r => .fault r
    | .refused r => .refused r

/-! ### The host of R319 -/

/-- EXEC is `HALTED(code)` for some code: the *failed* states of R323. -/
def State.isFailed (s : State) : Bool :=
  match s.execState with
  | .halted _ => true
  | .running => false
  | .awaitingKey _ => false

/-- A run as its host sees it: the engine, and whether a LOAD since the last RESET returned PROGRAM_TOO_LARGE. The second is
what the host must remember to keep its duty (R319); it is no state of the engine. -/
structure Session where
  engine : State
  loadFailed : Bool
  deriving DecidableEq, Repr

/-- A run at its beginning: the constructed engine, and no LOAD yet (R351, R352). -/
def Session.start (p : Params) (now draws : Nat) : Session := ⟨State.construct p now draws, false⟩

/-- Whether a host of R319 may perform an operation: no STEP after a LOAD that returned PROGRAM_TOO_LARGE, and none in
HALTED, where it must stop the run; everything else at any time (log entry 22). -/
def Session.allows (c : Session) : Op → Bool
  | .step => !c.loadFailed && !c.engine.isFailed
  | .reset _ => true
  | .load _ => true
  | .timerPoll _ _ => true
  | .setKeys _ => true
  | .keyRelease _ => true

/-- What the host remembers of its LOADs after an operation: a refused image fails the run until RESET (R311, R319). -/
def Session.loadFailedAfter (c : Session) : Op → Bool
  | .reset _ => false
  | .load bytes => c.loadFailed || progMax < bytes.length
  | .step => c.loadFailed
  | .timerPoll _ _ => c.loadFailed
  | .setKeys _ => c.loadFailed
  | .keyRelease _ => c.loadFailed

/-- A move of the host: the operation performed, or `none` where it has no move: "In a model, what the host must never do has
no move" (R319, D29). -/
def hostMove (p : Params) (op : Op) (c : Session) : Option (Host.Outcome (Session × Reply) Fault Refusal) :=
  if c.allows op then
    match perform p op c.engine with
    | .next (t, r) => some (.next (⟨t, c.loadFailedAfter op⟩, r))
    | .fault f => some (.fault f)
    | .refused f => some (.refused f)
  else none

/-- A run: any finite sequence of moves of a host of R319, one at a time in its order (R15, R318, R319). `none` when some
operation of the list is no move. -/
def runOps (p : Params) : List Op → Session → Option (Host.Outcome Session Fault Refusal)
  | [], c => some (.next c)
  | op :: rest, c =>
    match hostMove p op c with
    | some (.next (d, _)) => runOps p rest d
    | some (.fault f) => some (.fault f)
    | some (.refused f) => some (.refused f)
    | none => none

end Sys2Proof.Machine
end

