-- ==== Sys2Proof/Safety.lean ====
section
/-! DEFINITION. What claims about the engine are stated in: the invariants of a run (spec 10_state.md R35), the ends of a
run (60_exceptions.md R323), the parts of the state for frames (10_state.md R34, R37) and the PC classes
(40_step.md R126). -/

namespace Sys2Proof.Machine

/-! ### Parts of the state -/

/-- The elements of the state (R34), and the model's own count of random draws. -/
inductive Part where
  | regs | index | pc | sp | stack | dt | st | mem | key | fb | execState | timerRef | draws
  deriving DecidableEq, Repr

/-- A part has in `t` the value that it has in `s`; registers, memory and framebuffer through the read of one register,
byte or pixel. -/
def Part.same : Part → State → State → Prop
  | .regs, s, t => ∀ x, t.reg x = s.reg x
  | .index, s, t => t.i = s.i
  | .pc, s, t => t.pc = s.pc
  | .sp, s, t => t.sp = s.sp
  | .stack, s, t => ∀ k : Fin 16, t.stack[k] = s.stack[k]
  | .dt, s, t => t.dt = s.dt
  | .st, s, t => t.st = s.st
  | .mem, s, t => ∀ a, t.mem.read a = s.mem.read a
  | .key, s, t => ∀ k, t.keyPressed k = s.keyPressed k
  | .fb, s, t => ∀ px py, t.fb.pixel px py = s.fb.pixel px py
  | .execState, s, t => t.execState = s.execState
  | .timerRef, s, t => t.timerRef = s.timerRef
  | .draws, s, t => t.draws = s.draws

/-- Every part of the state that is not listed is unchanged from `s` to `t`. -/
def FrameExcept (parts : List Part) (s t : State) : Prop := ∀ p, p ∉ parts → p.same s t

/-- Every register that is not listed is unchanged from `s` to `t`. -/
def RegsExcept (xs : List RegIx) (s t : State) : Prop := ∀ x, x ∉ xs → t.reg x = s.reg x

/-- The parts that an instruction may write when it does not halt: the writer column of the access summary (R37), read by
instruction. -/
def writes : Instr → List Part
  | .cls => [.fb, .pc]
  | .ret => [.sp, .pc]
  | .jp _ => [.pc]
  | .call _ => [.stack, .sp, .pc]
  | .seImm _ _ => [.pc]
  | .sneImm _ _ => [.pc]
  | .seReg _ _ => [.pc]
  | .ldImm _ _ => [.regs, .pc]
  | .addImm _ _ => [.regs, .pc]
  | .ldReg _ _ => [.regs, .pc]
  | .or _ _ => [.regs, .pc]
  | .and _ _ => [.regs, .pc]
  | .xor _ _ => [.regs, .pc]
  | .addReg _ _ => [.regs, .pc]
  | .sub _ _ => [.regs, .pc]
  | .shr _ _ => [.regs, .pc]
  | .subn _ _ => [.regs, .pc]
  | .shl _ _ => [.regs, .pc]
  | .sneReg _ _ => [.pc]
  | .ldI _ => [.index, .pc]
  | .jpV0 _ => [.pc]
  | .rnd _ _ => [.regs, .draws, .pc]
  | .drw _ _ _ => [.fb, .regs, .pc]
  | .skp _ => [.pc]
  | .sknp _ => [.pc]
  | .ldVxDt _ => [.regs, .pc]
  | .ldVxK _ => [.execState]
  | .ldDtVx _ => [.dt, .pc]
  | .ldStVx _ => [.st, .pc]
  | .addIVx _ => [.index, .pc]
  | .ldFVx _ => [.index, .pc]
  | .ldBVx _ => [.mem, .pc]
  | .ldMIVx _ => [.mem, .index, .pc]
  | .ldVxMI _ => [.regs, .index, .pc]

/-! ### PC classes -/

/-- The four PC classes of R126. -/
inductive PcClass where
  | seq | skip | xfer | wait
  deriving DecidableEq, Repr

/-- The class of an instruction (R126). -/
def pcClass : Instr → PcClass
  | .cls => .seq
  | .ret => .xfer
  | .jp _ => .xfer
  | .call _ => .xfer
  | .seImm _ _ => .skip
  | .sneImm _ _ => .skip
  | .seReg _ _ => .skip
  | .ldImm _ _ => .seq
  | .addImm _ _ => .seq
  | .ldReg _ _ => .seq
  | .or _ _ => .seq
  | .and _ _ => .seq
  | .xor _ _ => .seq
  | .addReg _ _ => .seq
  | .sub _ _ => .seq
  | .shr _ _ => .seq
  | .subn _ _ => .seq
  | .shl _ _ => .seq
  | .sneReg _ _ => .skip
  | .ldI _ => .seq
  | .jpV0 _ => .xfer
  | .rnd _ _ => .seq
  | .drw _ _ _ => .seq
  | .skp _ => .skip
  | .sknp _ => .skip
  | .ldVxDt _ => .seq
  | .ldVxK _ => .wait
  | .ldDtVx _ => .seq
  | .ldStVx _ => .seq
  | .addIVx _ => .seq
  | .ldFVx _ => .seq
  | .ldBVx _ => .seq
  | .ldMIVx _ => .seq
  | .ldVxMI _ => .seq

/-- The condition on which a SKIP instruction skips (R160 to R165). -/
def skipHolds : Instr → State → Prop
  | .seImm x nn, s => s.reg x = nn
  | .sneImm x nn, s => s.reg x ≠ nn
  | .seReg x y, s => s.reg x = s.reg y
  | .sneReg x y, s => s.reg x ≠ s.reg y
  | .skp x, s => ∃ k : KeyIx, k.val = (s.reg x).toNat ∧ s.keyPressed k = true
  | .sknp x, s => ∃ k : KeyIx, k.val = (s.reg x).toNat ∧ s.keyPressed k = false
  | _, _ => False

/-- The target that an XFER instruction computes (R140 to R143). -/
def xferTarget : Instr → State → Nat
  | .ret, s => (s.stack[s.sp.toNat - 1]?.getD 0).toNat
  | .jp nnn, _ => nnn.toNat
  | .call nnn, _ => nnn.toNat
  | .jpV0 nnn, s => ((s.reg 0).toNat + nnn.toNat) % 4096
  | _, _ => 0

/-! ### Sprites -/

/-- Whether `DRW Vx, Vy, n` at `s` has a sprite bit of 1 at pixel (px, py), read off the rules and not off the drawing loop:
the sprite is 8 wide and n tall from (Vx mod 64, Vy mod 32), row r is the byte at (I + r) mod 4096, and bit 7 is leftmost
(R251, R252). -/
def spriteOn (s : State) (x y : RegIx) (n : BitVec 4) (px py : Nat) : Bool :=
  let x0 := (s.reg x).toNat % 64
  let y0 := (s.reg y).toNat % 32
  decide (x0 ≤ px ∧ px < x0 + 8 ∧ y0 ≤ py ∧ py < y0 + n.toNat) &&
    (s.mem.read (s.indexAddr (py - y0))).getLsbD (7 - (px - x0))

/-! ### Execution states -/

/-- EXEC is `AWAITING_KEY(t)` for some t. -/
def State.isAwaiting (s : State) : Bool :=
  match s.execState with
  | .awaitingKey _ => true
  | .running => false
  | .halted _ => false

/-- RUNNING at a jump to itself: PC <= 0xFFE and the word at PC is `0x1000 | PC` (R323). -/
def State.atSelfJump (s : State) : Bool :=
  s.execState = .running && s.pc.toNat ≤ lastFetch && s.fetchWord = 0x1000#16 ||| s.pc

/-- A *quiescent* state (R323). It does not say that the hardware stops. -/
def State.quiescent (s : State) : Bool := s.atSelfJump || s.isAwaiting

/-! ### Invariants -/

/-- What every reachable state satisfies (R35, R23, R144): I and SP in range, PC at most 0x1002, every stack entry at most
0x1000, a waiting PC from which an instruction was fetched, and memory in its canonical form (the model's own clause). -/
abbrev State.Inv (s : State) : Prop :=
  s.i.toNat ≤ 0xFFF ∧ s.sp.toNat ≤ 16 ∧ s.pc.toNat ≤ 0x1002 ∧ (∀ k : Fin 16, s.stack[k].toNat ≤ 0x1000) ∧
    (s.isAwaiting = true → s.pc.toNat ≤ lastFetch) ∧ s.mem.wf

/-- While the key-wait latch is set with target t, the word at PC is the Fx0A with x = t (R35). A LOAD may break this, as
R35 says; no STEP does. -/
def State.latchMatches (s : State) : Prop :=
  ∀ t, s.execState = .awaitingKey t → decode s.fetchWord = .instr (.ldVxK t)

/-- A state that some run of a host of R319 reaches from construction, whatever the instant and the random input (R318,
R319, R351). -/
def Reachable (p : Params) (s : State) : Prop :=
  ∃ now draws ops failed, runOps p ops (Session.start p now draws) = some (.next ⟨s, failed⟩)

/-- A state that some sequence of operations reaches from construction, also one that R319 forbids the host. Every
`Reachable` state is one of these. -/
def ReachableByAnyHost (p : Params) (s : State) : Prop :=
  ∃ now draws ops, runAnyOps p ops (State.construct p now draws) = .next s

end Sys2Proof.Machine
end

