-- ==== Sys2Proof/WellFormed.lean ====
section
/-! DEFINITION. Which words are instructions and which byte lists are program images. The operands of an `Instr` are in
range by their types (R93: "All 16 values are legal"), so every term of `Instr` is well formed; what a check can refuse is
a 16-bit word that matches no row of the opcode map (30_encoding.md R97, R98) and an image that is too long (R311). -/

namespace Sys2Proof

/-- A row of the opcode map: the words `w` with `w &&& mask = pattern` are the instruction `mnemonic` (R97). -/
structure OpRow where
  mnemonic : String
  pattern : Word
  mask : Word
  deriving DecidableEq, Repr

/-- Whether a word belongs to a row: "A word `w` is instruction `m` exactly when `w & mask = match`" (R97). -/
def OpRow.matchesWord (r : OpRow) (w : Word) : Bool := w &&& r.mask == r.pattern

/-- Rows 1 to 9 of the opcode map (R97). -/
def opcodeMapLow : List OpRow :=
  [⟨"CLS", 0x00E0, 0xFFFF⟩, ⟨"RET", 0x00EE, 0xFFFF⟩, ⟨"JP", 0x1000, 0xF000⟩, ⟨"CALL", 0x2000, 0xF000⟩,
   ⟨"SE_imm", 0x3000, 0xF000⟩, ⟨"SNE_imm", 0x4000, 0xF000⟩, ⟨"SE_reg", 0x5000, 0xF00F⟩, ⟨"LD_imm", 0x6000, 0xF000⟩,
   ⟨"ADD_imm", 0x7000, 0xF000⟩]

/-- Rows 10 to 18 of the opcode map (R97): family 8. -/
def opcodeMapAlu : List OpRow :=
  [⟨"LD_reg", 0x8000, 0xF00F⟩, ⟨"OR", 0x8001, 0xF00F⟩, ⟨"AND", 0x8002, 0xF00F⟩, ⟨"XOR", 0x8003, 0xF00F⟩,
   ⟨"ADD_reg", 0x8004, 0xF00F⟩, ⟨"SUB", 0x8005, 0xF00F⟩, ⟨"SHR", 0x8006, 0xF00F⟩, ⟨"SUBN", 0x8007, 0xF00F⟩,
   ⟨"SHL", 0x800E, 0xF00F⟩]

/-- Rows 19 to 25 of the opcode map (R97). -/
def opcodeMapHigh : List OpRow :=
  [⟨"SNE_reg", 0x9000, 0xF00F⟩, ⟨"LD_I", 0xA000, 0xF000⟩, ⟨"JP_V0", 0xB000, 0xF000⟩, ⟨"RND", 0xC000, 0xF000⟩,
   ⟨"DRW", 0xD000, 0xF000⟩, ⟨"SKP", 0xE09E, 0xF0FF⟩, ⟨"SKNP", 0xE0A1, 0xF0FF⟩]

/-- Rows 26 to 34 of the opcode map (R97): family F. -/
def opcodeMapF : List OpRow :=
  [⟨"LD_Vx_DT", 0xF007, 0xF0FF⟩, ⟨"LD_Vx_K", 0xF00A, 0xF0FF⟩, ⟨"LD_DT_Vx", 0xF015, 0xF0FF⟩,
   ⟨"LD_ST_Vx", 0xF018, 0xF0FF⟩, ⟨"ADD_I_Vx", 0xF01E, 0xF0FF⟩, ⟨"LD_F_Vx", 0xF029, 0xF0FF⟩,
   ⟨"LD_B_Vx", 0xF033, 0xF0FF⟩, ⟨"LD_mI_Vx", 0xF055, 0xF0FF⟩, ⟨"LD_Vx_mI", 0xF065, 0xF0FF⟩]

/-- The opcode map, 34 rows (R97). -/
def opcodeMap : List OpRow := opcodeMapLow ++ opcodeMapAlu ++ opcodeMapHigh ++ opcodeMapF

/-- A legal word: one that matches a row. Every other word is illegal (R98). -/
def legalWord (w : Word) : Bool := opcodeMap.any (·.matchesWord w)

/-- A program image that LOAD accepts: at most 3584 bytes (R311). -/
def legalImage (b : List Byte) : Bool := b.length ≤ progMax

end Sys2Proof
end

