-- ==== Sys2Proof/Certificates/Slice0/Obligations.lean ====
section
/-! DEFINITION. The statements for the provers. Each docstring ends with the rules or sections of the spec it rests on. In
the clauses on encodings, the fields fill zero bits of the pattern, so `+` of the shifted fields is the spec's `|`. -/

open Sys2Proof Sys2Proof.Machine

/-- For every instruction, with every operand at every value its field admits, decode of encode is the instruction;
no two instructions share a word and no operand bit is lost. (30_encoding.md sections 2 to 4,
92_eei_decisions.md D8) -/
def Obligations.DecodeOfEncodeIsInstruction : Prop :=
  ∀ i : Instr, decode (encode i) = .instr i

/-- For every 16-bit word w and instruction i, if w decodes to i then encoding i gives w; and every legal word
decodes to some instruction. The second clause rests on strict decoding (D8). (30_encoding.md section 4 (re-
encoding of the decoded fields), 95_test_vectors.md S1) -/
def Obligations.EncodeOfDecodeIsWord : Prop :=
  ∀ w : Word, (∀ i, decode w = .instr i → encode i = w) ∧ (legalWord w = true → ∃ i, decode w = .instr i)

/-- For every word w and every row r of the opcode map, w decodes to an instruction named as r exactly when w & mask
= match; and a word matches at most one row. That the rows are disjoint is an inference the spec marks as
derived. (30_encoding.md section 3 (the opcode map and decode), 92_eei_decisions.md D8) -/
def Obligations.DecodeFollowsOpcodeMap : Prop :=
  (∀ w : Word, ∀ r ∈ opcodeMap, (∃ i, decode w = .instr i ∧ i.mnemonic = r.mnemonic) ↔ w &&& r.mask = r.pattern) ∧
  (∀ w : Word, ∀ r ∈ opcodeMap, ∀ q ∈ opcodeMap, r.matchesWord w = true → q.matchesWord w = true → r = q)

/-- One word at least of each of the 16 opcode families 0 to F, written from the pattern column of the opcode map,
decodes to the instruction the map names, and five words outside the map are invalid. (30_encoding.md section 3
(the opcode map), 95_test_vectors.md T1 to T142) -/
def Obligations.SampleWordsDecodeAsTabled : Prop :=
  decode 0x00E0 = .instr .cls ∧ decode 0x00EE = .instr .ret ∧ decode 0x1234 = .instr (.jp 0x234) ∧
  decode 0x2468 = .instr (.call 0x468) ∧ decode 0x3342 = .instr (.seImm 3 0x42) ∧
  decode 0x4C9D = .instr (.sneImm 12 0x9D) ∧ decode 0x5AB0 = .instr (.seReg 10 11) ∧
  decode 0x6A2F = .instr (.ldImm 10 0x2F) ∧ decode 0x7103 = .instr (.addImm 1 0x03) ∧
  decode 0x8F14 = .instr (.addReg 15 1) ∧ decode 0x9120 = .instr (.sneReg 1 2) ∧ decode 0xA2F0 = .instr (.ldI 0x2F0) ∧
  decode 0xB3F8 = .instr (.jpV0 0x3F8) ∧ decode 0xC30F = .instr (.rnd 3 0x0F) ∧
  decode 0xD5A3 = .instr (.drw 5 10 3) ∧ decode 0xE5A1 = .instr (.sknp 5) ∧ decode 0xF265 = .instr (.ldVxMI 2) ∧
  decode 0x0123 = .invalid 0x0123 ∧ decode 0x5121 = .invalid 0x5121 ∧ decode 0x8128 = .invalid 0x8128 ∧
  decode 0xE09F = .invalid 0xE09F ∧ decode 0xF0FF = .invalid 0xF0FF

/-- When EXEC is RUNNING, PC <= 0xFFE and the big-endian word of the bytes at PC and PC + 1 decodes to i, step is
exec of i at that same state: PC is still the fetch address, and STEP adds nothing around it. (40_step.md (STEP,
fetch and execute), 92_eei_decisions.md D2) -/
def Obligations.StepRunsTheDecodedInstruction : Prop :=
  ∀ (s : State) (i : Instr), s.execState = .running → s.pc.toNat ≤ 0xFFE →
    decode (s.mem.read (BitVec.ofNat 12 s.pc.toNat) ++ s.mem.read (BitVec.ofNat 12 (s.pc.toNat + 1))) = .instr i →
    step s = exec i s

/-- When EXEC is RUNNING, PC <= 0xFFE and the word at PC decodes to Invalid, step gives the state with EXEC =
HALTED(INVALID_OPCODE); PC still holds the address of the word and every other part of the state is the same.
(R123) -/
def Obligations.UnrecognisedWordHaltsBeforeExecution : Prop :=
  ∀ s : State, s.execState = .running → s.pc.toNat ≤ 0xFFE → (∃ w, decode s.fetchWord = .invalid w) →
    ∃ t, step s = .next t ∧ t.execState = .halted .invalidOpcode ∧ t.pc = s.pc ∧ FrameExcept [.execState] s t

/-- For every state whose EXEC is AWAITING_KEY(t) or HALTED(code), running any number k of STEPs answers that same
state. That STEP is idle in HALTED is the spec's own choice (D11). (40_step.md (STEP outside RUNNING),
46_timers_keys.md (liveness of the latch), 92_eei_decisions.md D11) -/
def Obligations.StepOutsideRunningIsIdle : Prop :=
  ∀ (s : State) (k : Nat), s.execState ≠ .running → Sys2Proof.core.run k s = .next s

/-- For every instruction run in RUNNING that does not halt: SEQ gives PC + 2; SKIP gives PC + 4 if its condition
holds, else PC + 2; XFER gives the target it computes; WAIT (Fx0A) leaves PC unchanged. Every result is reduced
mod 65536. The class of every instruction is the table's. (R126) -/
def Obligations.PcFollowsItsClass : Prop :=
  ∀ (i : Instr) (s t : State), s.execState = .running → exec i s = .next t → t.isFailed = false →
    match pcClass i with
    | .seq => t.pc.toNat = (s.pc.toNat + 2) % 65536
    | .skip => (skipHolds i s → t.pc.toNat = (s.pc.toNat + 4) % 65536) ∧
        (¬ skipHolds i s → t.pc.toNat = (s.pc.toNat + 2) % 65536)
    | .xfer => t.pc.toNat = xferTarget i s % 65536
    | .wait => t.pc = s.pc

/-- From RUNNING, if an instruction or a step ends in HALTED(code), the state after it is the state before with EXEC
= HALTED(code): no register, PC, SP, stack entry, timer, byte, pixel or key differs. The spec marks 'no partial
execution' as derived. (40_step.md (no partial execution), 60_exceptions.md section 1 (halt entry)) -/
def Obligations.HaltsArePrecise : Prop :=
  ∀ (s t : State) (c : HaltCode), s.execState = .running → t.execState = .halted c →
    ((∃ i, exec i s = .next t) ∨ step s = .next t) →
    t = { s with execState := .halted c } ∧ FrameExcept [.execState] s t

/-- From RUNNING, a step whose next state is HALTED(code) had: code 4, PC > 0xFFE; code 1, PC <= 0xFFE and an
invalid word; code 2, a CALL with SP = 16; code 3, a RET with SP = 0; code 5, Ex9E or ExA1 with Vx > 0xF; and
each cause gives its code. Codes and the last two causes are the spec's own choices (D3, D4, D7).
(60_exceptions.md section 1 (halt codes and priority), 92_eei_decisions.md D3, D4, D7) -/
def Obligations.HaltCodesHaveTheirCauses : Prop :=
  ∀ s : State, s.execState = .running →
    (step s = .next (s.raiseHalt .fetchOutOfRange) ↔ 0xFFE < s.pc.toNat) ∧
    (step s = .next (s.raiseHalt .invalidOpcode) ↔ s.pc.toNat ≤ 0xFFE ∧ ∃ w, decode s.fetchWord = .invalid w) ∧
    (step s = .next (s.raiseHalt .stackOverflow) ↔
      s.pc.toNat ≤ 0xFFE ∧ (∃ nnn, decode s.fetchWord = .instr (.call nnn)) ∧ s.sp.toNat = 16) ∧
    (step s = .next (s.raiseHalt .stackUnderflow) ↔
      s.pc.toNat ≤ 0xFFE ∧ decode s.fetchWord = .instr .ret ∧ s.sp.toNat = 0) ∧
    (step s = .next (s.raiseHalt .keyIndexOutOfRange) ↔
      s.pc.toNat ≤ 0xFFE ∧ ∃ x, (decode s.fetchWord = .instr (.skp x) ∨ decode s.fetchWord = .instr (.sknp x)) ∧
        15 < (s.reg x).toNat)

/-- For every instruction run in RUNNING that does not halt, every part of the state that the writer column of the
access summary does not give it is unchanged: only 00E0 and Dxyn change the framebuffer, only Fx33 and Fx55
change memory, only CALL changes the stack, only CALL and RET change SP, only Fx15 changes DT, only Fx18 changes
ST, only Fx0A changes EXEC, and none changes the keypad or TIMER_REF. The summary is marked derived; the count
of random draws is the model's own (log entry 2). (10_state.md section 14 (who reads and writes what)) -/
def Obligations.InstructionsWriteOnlyTheirParts : Prop :=
  ∀ (i : Instr) (s t : State), s.execState = .running → exec i s = .next t → t.isFailed = false →
    FrameExcept (writes i) s t

/-- Changing TIMER_REF before an instruction changes nothing but TIMER_REF after it; the same of ST for every
instruction but Fx18, which overwrites it, and of the keypad for every instruction but Ex9E and ExA1. Two runs
are compared with the random input held equal: both have the same count of draws, so a Cxnn takes the same byte
in both, which is the model's choice and need not be so on the hardware (log entry 2). Fx18 has its own
statement, SetSoundTimerDrivesTone. (10_state.md sections 6 and 7 (ST, TIMER_REF, KEY)) -/
def Obligations.NoInstructionReadsHiddenTimers : Prop :=
  ∀ (i : Instr) (s : State),
    (∀ r t, exec i s = .next t → exec i { s with timerRef := r } = .next { t with timerRef := r }) ∧
    (∀ b t, (∀ x, i ≠ .ldStVx x) → exec i s = .next t → exec i { s with st := b } = .next { t with st := b }) ∧
    (∀ k t, (∀ x, i ≠ .skp x ∧ i ≠ .sknp x) → exec i s = .next t →
      exec i { s with key := k } = .next { t with key := k })

/-- For every state and every table word that decodes to i, the next step of the state with that word placed is exec
of i there; placing it keeps every register, I, SP, the stack, timers, TIMER_REF, keypad, framebuffer, the count
of draws, and every byte but the two at PC; it makes EXEC RUNNING, keeps PC when PC <= 0xFFE, and moves PC to
0x200 when PC > 0xFFE, from where nothing can be fetched. This is about the model's own loader aid, and what it
does to EXEC and PC is the model's choice (log entry 12). (40_step.md (STEP and fetch), 20_memory.md section 3
(byte order)) -/
def Obligations.PlacedWordRunsNext : Prop :=
  ∀ (s : State) (w : Nat) (i : Instr), decodeTableWord 16 w = some i →
    step (s.withFetchWord 16 w) = exec i (s.withFetchWord 16 w) ∧
    FrameExcept [.mem, .pc, .execState] s (s.withFetchWord 16 w) ∧
    (s.withFetchWord 16 w).execState = .running ∧
    (s.pc.toNat ≤ 0xFFE → (s.withFetchWord 16 w).pc = s.pc) ∧
    (0xFFE < s.pc.toNat → (s.withFetchWord 16 w).pc = 0x200) ∧
    (∀ a : Addr, a ≠ BitVec.ofNat 12 (s.withFetchWord 16 w).pc.toNat →
      a ≠ BitVec.ofNat 12 ((s.withFetchWord 16 w).pc.toNat + 1) →
      (s.withFetchWord 16 w).mem.read a = s.mem.read a)

/-- LD Vx, nn completes in every state: Vx = nn (VF too when x = F), every other register is unchanged, PC = PC + 2
mod 65536, and every other part of the state is unchanged; the word 0x6000 | x<<8 | nn decodes to it. (R180) -/
def Obligations.LoadImmediateStoresByte : Prop :=
  ∀ (x : RegIx) (nn : Byte) (s : State),
    decode (BitVec.ofNat 16 (0x6000 + x.val * 256 + nn.toNat)) = .instr (.ldImm x nn) ∧
    ∃ t, exec (.ldImm x nn) s = .next t ∧ t.reg x = nn ∧ RegsExcept [x] s t ∧
      t.pc.toNat = (s.pc.toNat + 2) % 65536 ∧ FrameExcept [.regs, .pc] s t

/-- ADD Vx, nn completes in every state: Vx is the sum mod 256, every other register (VF too unless x = F) is
unchanged, PC = PC + 2 mod 65536, and every other part of the state is unchanged; the word 0x7000 | x<<8 | nn
decodes to it. (R181) -/
def Obligations.AddImmediateDiscardsCarry : Prop :=
  ∀ (x : RegIx) (nn : Byte) (s : State),
    decode (BitVec.ofNat 16 (0x7000 + x.val * 256 + nn.toNat)) = .instr (.addImm x nn) ∧
    ∃ t, exec (.addImm x nn) s = .next t ∧ (t.reg x).toNat = ((s.reg x).toNat + nn.toNat) % 256 ∧
      RegsExcept [x] s t ∧ t.pc.toNat = (s.pc.toNat + 2) % 65536 ∧ FrameExcept [.regs, .pc] s t

/-- LD Vx, Vy completes in every state: Vx = the old Vy, every other register is unchanged, PC = PC + 2 mod 65536,
and every other part of the state is unchanged; the word 0x8000 | x<<8 | y<<4 decodes to it. (R182) -/
def Obligations.LoadRegisterCopies : Prop :=
  ∀ (x y : RegIx) (s : State),
    decode (BitVec.ofNat 16 (0x8000 + x.val * 256 + y.val * 16)) = .instr (.ldReg x y) ∧
    ∃ t, exec (.ldReg x y) s = .next t ∧ t.reg x = s.reg y ∧ RegsExcept [x] s t ∧ t.pc.toNat = (s.pc.toNat + 2) % 65536 ∧ FrameExcept [.regs, .pc] s t

/-- OR, AND and XOR complete in every state: Vx is the bitwise result of the old Vx and Vy unless x = F, VF = 0
always, every other register is unchanged, PC = PC + 2 mod 65536, and every other part of the state is
unchanged; the words 0x8001, 0x8002, 0x8003 | x<<8 | y<<4 decode to them. (R183, R184, R185) -/
def Obligations.LogicOpsClearVf : Prop :=
  ∀ (x y : RegIx) (s : State),
    (decode (BitVec.ofNat 16 (0x8001 + x.val * 256 + y.val * 16)) = .instr (.or x y) ∧
      ∃ t, exec (.or x y) s = .next t ∧ (x ≠ 15 → t.reg x = s.reg x ||| s.reg y) ∧ t.reg 15 = 0 ∧
        RegsExcept [x, 15] s t ∧ t.pc.toNat = (s.pc.toNat + 2) % 65536 ∧ FrameExcept [.regs, .pc] s t) ∧
    (decode (BitVec.ofNat 16 (0x8002 + x.val * 256 + y.val * 16)) = .instr (.and x y) ∧
      ∃ t, exec (.and x y) s = .next t ∧ (x ≠ 15 → t.reg x = s.reg x &&& s.reg y) ∧ t.reg 15 = 0 ∧
        RegsExcept [x, 15] s t ∧ t.pc.toNat = (s.pc.toNat + 2) % 65536 ∧ FrameExcept [.regs, .pc] s t) ∧
    (decode (BitVec.ofNat 16 (0x8003 + x.val * 256 + y.val * 16)) = .instr (.xor x y) ∧
      ∃ t, exec (.xor x y) s = .next t ∧ (x ≠ 15 → t.reg x = s.reg x ^^^ s.reg y) ∧ t.reg 15 = 0 ∧
        RegsExcept [x, 15] s t ∧ t.pc.toNat = (s.pc.toNat + 2) % 65536 ∧ FrameExcept [.regs, .pc] s t)

/-- ADD Vx, Vy completes in every state: with s = Vx + Vy of the old registers, Vx = s mod 256 unless x = F, VF = 1
if s > 255 else 0 (VF is the carry when x = F), every other register is unchanged, PC = PC + 2 mod 65536, and
every other part of the state is unchanged; the word 0x8004 | x<<8 | y<<4 decodes to it. (R186) -/
def Obligations.AddRegisterSetsCarry : Prop :=
  ∀ (x y : RegIx) (s : State),
    decode (BitVec.ofNat 16 (0x8004 + x.val * 256 + y.val * 16)) = .instr (.addReg x y) ∧
    ∃ t, exec (.addReg x y) s = .next t ∧
      (x ≠ 15 → (t.reg x).toNat = ((s.reg x).toNat + (s.reg y).toNat) % 256) ∧
      t.reg 15 = (if 255 < (s.reg x).toNat + (s.reg y).toNat then 1 else 0) ∧
      RegsExcept [x, 15] s t ∧ t.pc.toNat = (s.pc.toNat + 2) % 65536 ∧ FrameExcept [.regs, .pc] s t

/-- SUB (Vx - Vy) and SUBN (Vy - Vx) complete in every state: Vx is the difference of the old registers mod 256
unless x = F, VF = 1 if the minuend is at least the subtrahend else 0, every other register is unchanged, PC =
PC + 2 mod 65536, and every other part of the state is unchanged. That the flag wins when x = F is the
resolution of conflict C2 (D9). (43_alu.md (SUB, SUBN, write order), 90_conflicts.md C2, 92_eei_decisions.md D9) -/
def Obligations.SubtractionsSetNoBorrow : Prop :=
  ∀ (x y : RegIx) (s : State),
    (decode (BitVec.ofNat 16 (0x8005 + x.val * 256 + y.val * 16)) = .instr (.sub x y) ∧
      ∃ t, exec (.sub x y) s = .next t ∧
        (x ≠ 15 → ((t.reg x).toNat : Int) = (((s.reg x).toNat : Int) - ((s.reg y).toNat : Int)) % 256) ∧
        t.reg 15 = (if (s.reg y).toNat ≤ (s.reg x).toNat then 1 else 0) ∧
        RegsExcept [x, 15] s t ∧ t.pc.toNat = (s.pc.toNat + 2) % 65536 ∧ FrameExcept [.regs, .pc] s t) ∧
    (decode (BitVec.ofNat 16 (0x8007 + x.val * 256 + y.val * 16)) = .instr (.subn x y) ∧
      ∃ t, exec (.subn x y) s = .next t ∧
        (x ≠ 15 → ((t.reg x).toNat : Int) = (((s.reg y).toNat : Int) - ((s.reg x).toNat : Int)) % 256) ∧
        t.reg 15 = (if (s.reg x).toNat ≤ (s.reg y).toNat then 1 else 0) ∧
        RegsExcept [x, 15] s t ∧ t.pc.toNat = (s.pc.toNat + 2) % 65536 ∧ FrameExcept [.regs, .pc] s t)

/-- SHR and SHL complete in every state: Vx = Vy div 2, or 2·Vy mod 256, of the old Vy unless x = F; VF = bit 0, or
bit 7, of the old Vy; the old Vx is not read; every other register is unchanged, PC = PC + 2 mod 65536, and
every other part of the state is unchanged. That the flag wins when x = F is the resolution of conflict C2 (D9).
(43_alu.md (SHR, SHL, write order), 90_conflicts.md C2, C6, 92_eei_decisions.md D9) -/
def Obligations.ShiftsMoveVyByOne : Prop :=
  ∀ (x y : RegIx) (s : State),
    (decode (BitVec.ofNat 16 (0x8006 + x.val * 256 + y.val * 16)) = .instr (.shr x y) ∧
      ∃ t, exec (.shr x y) s = .next t ∧ (x ≠ 15 → (t.reg x).toNat = (s.reg y).toNat / 2) ∧
        t.reg 15 = (if (s.reg y).getLsbD 0 then 1 else 0) ∧
        RegsExcept [x, 15] s t ∧ t.pc.toNat = (s.pc.toNat + 2) % 65536 ∧ FrameExcept [.regs, .pc] s t) ∧
    (decode (BitVec.ofNat 16 (0x800E + x.val * 256 + y.val * 16)) = .instr (.shl x y) ∧
      ∃ t, exec (.shl x y) s = .next t ∧ (x ≠ 15 → (t.reg x).toNat = 2 * (s.reg y).toNat % 256) ∧
        t.reg 15 = (if (s.reg y).getLsbD 7 then 1 else 0) ∧
        RegsExcept [x, 15] s t ∧ t.pc.toNat = (s.pc.toNat + 2) % 65536 ∧ FrameExcept [.regs, .pc] s t)

/-- RND Vx, nn completes in every state: Vx = r & nn for the byte r that the free random input gives at this draw,
exactly one byte is drawn whatever nn is, nn = 0 gives 0 and nn = 0xFF gives r; every other register is
unchanged, PC = PC + 2 mod 65536, and every other part of the state is unchanged. The random input is a free
value of the model (log entry 2). (43_alu.md (RND), 60_exceptions.md section 3 (the random input),
92_eei_decisions.md D22) -/
def Obligations.RandomByteIsMaskedAndDrawn : Prop :=
  ∀ (x : RegIx) (nn : Byte) (s : State),
    decode (BitVec.ofNat 16 (0xC000 + x.val * 256 + nn.toNat)) = .instr (.rnd x nn) ∧
    ∃ t, exec (.rnd x nn) s = .next t ∧ t.reg x = Config.randomByte s.draws &&& nn ∧ t.draws = s.draws + 1 ∧
      (nn = 0 → t.reg x = 0) ∧ (nn = 0xFF → t.reg x = Config.randomByte s.draws) ∧
      RegsExcept [x] s t ∧ t.pc.toNat = (s.pc.toNat + 2) % 65536 ∧ FrameExcept [.regs, .draws, .pc] s t

/-- SE Vx, nn and SNE Vx, nn complete in every state: PC = PC + 4 if the condition holds, else PC + 2, mod 65536,
and every other part of the state is unchanged; the words 0x3000 and 0x4000 | x<<8 | nn decode to them. (R160,
R161) -/
def Obligations.ImmediateSkipsCompare : Prop :=
  ∀ (x : RegIx) (nn : Byte) (s : State),
    (decode (BitVec.ofNat 16 (0x3000 + x.val * 256 + nn.toNat)) = .instr (.seImm x nn) ∧
      ∃ t, exec (.seImm x nn) s = .next t ∧
        t.pc.toNat = (s.pc.toNat + if s.reg x = nn then 4 else 2) % 65536 ∧ FrameExcept [.pc] s t) ∧
    (decode (BitVec.ofNat 16 (0x4000 + x.val * 256 + nn.toNat)) = .instr (.sneImm x nn) ∧
      ∃ t, exec (.sneImm x nn) s = .next t ∧
        t.pc.toNat = (s.pc.toNat + if s.reg x ≠ nn then 4 else 2) % 65536 ∧ FrameExcept [.pc] s t)

/-- SE Vx, Vy and SNE Vx, Vy complete in every state: PC = PC + 4 if the condition holds, else PC + 2, mod 65536,
and every other part of the state is unchanged; the words 0x5000 and 0x9000 | x<<8 | y<<4 decode to them, and
the same words with a low nibble other than 0 are illegal. (R162, R163) -/
def Obligations.RegisterSkipsCompare : Prop :=
  ∀ (x y : RegIx) (s : State),
    (decode (BitVec.ofNat 16 (0x5000 + x.val * 256 + y.val * 16)) = .instr (.seReg x y) ∧
      ∃ t, exec (.seReg x y) s = .next t ∧
        t.pc.toNat = (s.pc.toNat + if s.reg x = s.reg y then 4 else 2) % 65536 ∧ FrameExcept [.pc] s t) ∧
    (decode (BitVec.ofNat 16 (0x9000 + x.val * 256 + y.val * 16)) = .instr (.sneReg x y) ∧
      ∃ t, exec (.sneReg x y) s = .next t ∧
        t.pc.toNat = (s.pc.toNat + if s.reg x ≠ s.reg y then 4 else 2) % 65536 ∧ FrameExcept [.pc] s t) ∧
    (∀ n : BitVec 4, n ≠ 0 →
      (∃ w, decode (BitVec.ofNat 16 (0x5000 + x.val * 256 + y.val * 16 + n.toNat)) = .invalid w) ∧
      ∃ w, decode (BitVec.ofNat 16 (0x9000 + x.val * 256 + y.val * 16 + n.toNat)) = .invalid w)

/-- SKP and SKNP complete whenever Vx names a key k (Vx <= 0xF): PC = PC + 4 if KEY[k] is 1, or 0, else PC + 2, mod
65536, and nothing else changes. With Vx > 0xF they halt with KEY_INDEX_OUT_OF_RANGE and only EXEC changes; that
halt is the spec's own choice (D7). (42_skips.md (SKP, SKNP), 92_eei_decisions.md D7) -/
def Obligations.KeySkipsTestTheKeypad : Prop :=
  ∀ (x : RegIx) (s : State),
    (decode (BitVec.ofNat 16 (0xE09E + x.val * 256)) = .instr (.skp x) ∧
      (∀ k : KeyIx, k.val = (s.reg x).toNat →
        ∃ t, exec (.skp x) s = .next t ∧
          t.pc.toNat = (s.pc.toNat + if s.keyPressed k = true then 4 else 2) % 65536 ∧ FrameExcept [.pc] s t) ∧
      (15 < (s.reg x).toNat →
        ∃ t, exec (.skp x) s = .next t ∧ t.execState = .halted .keyIndexOutOfRange ∧ FrameExcept [.execState] s t)) ∧
    (decode (BitVec.ofNat 16 (0xE0A1 + x.val * 256)) = .instr (.sknp x) ∧
      (∀ k : KeyIx, k.val = (s.reg x).toNat →
        ∃ t, exec (.sknp x) s = .next t ∧
          t.pc.toNat = (s.pc.toNat + if s.keyPressed k = false then 4 else 2) % 65536 ∧ FrameExcept [.pc] s t) ∧
      (15 < (s.reg x).toNat →
        ∃ t, exec (.sknp x) s = .next t ∧ t.execState = .halted .keyIndexOutOfRange ∧ FrameExcept [.execState] s t))

/-- JP nnn and JP V0, nnn complete in every state: PC = nnn, or (V0 + nnn) mod 4096 whatever the x nibble of nnn is,
and every other part of the state is unchanged; the words 0x1000 and 0xB000 | nnn decode to them.
(41_control_transfer.md (JP, JP V0)) -/
def Obligations.JumpsSetPc : Prop :=
  ∀ (nnn : Addr) (s : State),
    (decode (BitVec.ofNat 16 (0x1000 + nnn.toNat)) = .instr (.jp nnn) ∧
      ∃ t, exec (.jp nnn) s = .next t ∧ t.pc.toNat = nnn.toNat ∧ FrameExcept [.pc] s t) ∧
    (decode (BitVec.ofNat 16 (0xB000 + nnn.toNat)) = .instr (.jpV0 nnn) ∧
      ∃ t, exec (.jpV0 nnn) s = .next t ∧ t.pc.toNat = ((s.reg 0).toNat + nnn.toNat) % 4096 ∧
        FrameExcept [.pc] s t)

/-- CALL nnn completes whenever SP < 16: STACK[SP] = PC + 2 mod 65536, every other entry is unchanged, SP = SP + 1,
PC = nnn, and every other part of the state is unchanged. With SP = 16 it halts with STACK_OVERFLOW and only
EXEC changes. The pushed value is the resolution of conflict C1 (D10). (41_control_transfer.md (CALL),
90_conflicts.md C1, 92_eei_decisions.md D10) -/
def Obligations.CallPushesReturnAddress : Prop :=
  ∀ (nnn : Addr) (s : State),
    decode (BitVec.ofNat 16 (0x2000 + nnn.toNat)) = .instr (.call nnn) ∧
    (s.sp.toNat < 16 →
      ∃ t, exec (.call nnn) s = .next t ∧
        (∀ k : Fin 16, t.stack[k] =
          if k.val = s.sp.toNat then BitVec.ofNat 16 ((s.pc.toNat + 2) % 65536) else s.stack[k]) ∧
        t.sp.toNat = s.sp.toNat + 1 ∧ t.pc.toNat = nnn.toNat ∧ FrameExcept [.stack, .sp, .pc] s t) ∧
    (s.sp.toNat = 16 →
      ∃ t, exec (.call nnn) s = .next t ∧ t.execState = .halted .stackOverflow ∧ FrameExcept [.execState] s t)

/-- RET completes whenever SP is 1 to 16: SP = SP - 1, PC = STACK[SP - 1] with no advance, and every other part of
the state, the stack too, is unchanged. With SP = 0 it halts with STACK_UNDERFLOW and only EXEC changes.
(41_control_transfer.md (RET), 60_exceptions.md section 1 (STACK_UNDERFLOW)) -/
def Obligations.ReturnPopsPc : Prop :=
  ∀ s : State, decode 0x00EE = .instr .ret ∧
    (∀ k : Fin 16, s.sp.toNat = k.val + 1 →
      ∃ t, exec .ret s = .next t ∧ t.sp.toNat = k.val ∧ t.pc = s.stack[k] ∧ FrameExcept [.sp, .pc] s t) ∧
    (s.sp.toNat = 0 →
      ∃ t, exec .ret s = .next t ∧ t.execState = .halted .stackUnderflow ∧ FrameExcept [.execState] s t)

/-- If a CALL completes in state s and a later state u still has the SP and the stack that the CALL left, RET
completes in u with PC = the CALL's address + 2 mod 65536 and SP as before the CALL. (95_test_vectors.md S4,
41_control_transfer.md (CALL, RET), 90_conflicts.md C1) -/
def Obligations.CallThenReturnResumesAfterCall : Prop :=
  ∀ (nnn : Addr) (s t u : State), s.sp.toNat < 16 → exec (.call nnn) s = .next t → u.sp = t.sp → u.stack = t.stack →
    ∃ r, exec .ret u = .next r ∧ r.pc.toNat = (s.pc.toNat + 2) % 65536 ∧ r.sp = s.sp

/-- From RUNNING with SP = 0 and the word at PC a CALL of PC itself, 16 STEPs fill the stack with PC + 2 and leave
SP = 16, and the 17th gives HALTED(STACK_OVERFLOW) with nothing else changed. (41_control_transfer.md (CALL),
95_test_vectors.md P5) -/
def Obligations.RecursiveCallOverflowsAtDepth17 : Prop :=
  ∀ s : State, s.execState = .running → s.pc.toNat ≤ 0xFFE → s.sp.toNat = 0 →
    decode s.fetchWord = .instr (.call (BitVec.ofNat 12 s.pc.toNat)) →
    ∃ t, Sys2Proof.core.run 16 s = .next t ∧ t.sp.toNat = 16 ∧ t.execState = .running ∧ t.pc = s.pc ∧
      (∀ k : Fin 16, t.stack[k].toNat = s.pc.toNat + 2) ∧ FrameExcept [.sp, .stack] s t ∧
      Sys2Proof.core.run 17 s = .next (t.raiseHalt .stackOverflow)

/-- In the states with SP in 17 to 31, which no run reaches and for which the spec says to assume no behaviour (N4),
CALL and RET stop with the fault stackPointerIllegal. This is the model's choice (log entry 5).
(91_not_in_source.md N4, 10_state.md section 5) -/
def Obligations.IllegalStackPointerStops : Prop :=
  ∀ (nnn : Addr) (s : State), 16 < s.sp.toNat →
    exec (.call nnn) s = .fault .stackPointerIllegal ∧ exec .ret s = .fault .stackPointerIllegal

/-- LD I, nnn completes in every state: I = nnn, PC = PC + 2 mod 65536, and every other part of the state is
unchanged; the word 0xA000 | nnn decodes to it. (R220) -/
def Obligations.LoadIndexStoresAddress : Prop :=
  ∀ (nnn : Addr) (s : State),
    decode (BitVec.ofNat 16 (0xA000 + nnn.toNat)) = .instr (.ldI nnn) ∧
    ∃ t, exec (.ldI nnn) s = .next t ∧ t.i.toNat = nnn.toNat ∧ t.pc.toNat = (s.pc.toNat + 2) % 65536 ∧ FrameExcept [.index, .pc] s t

/-- ADD I, Vx completes in every state: I is the sum of the old I and Vx mod 4096, PC = PC + 2 mod 65536, and every
other part of the state, VF too, is unchanged; the word 0xF01E | x<<8 decodes to it. (R221) -/
def Obligations.AddIndexWrapsWithoutFlag : Prop :=
  ∀ (x : RegIx) (s : State),
    decode (BitVec.ofNat 16 (0xF01E + x.val * 256)) = .instr (.addIVx x) ∧
    ∃ t, exec (.addIVx x) s = .next t ∧ t.i.toNat = (s.i.toNat + (s.reg x).toNat) % 4096 ∧ t.pc.toNat = (s.pc.toNat + 2) % 65536 ∧ FrameExcept [.index, .pc] s t

/-- LD F, Vx completes in every state: I = (5·Vx) mod 4096 = 5·Vx, for every byte, no fault; for Vx <= 0xF the
glyph's five bytes lie in 0x000-0x04F; PC = PC + 2 mod 65536, and every other part of the state is unchanged;
the word 0xF029 | x<<8 decodes to it. (R222) -/
def Obligations.FontAddressIsFiveTimesVx : Prop :=
  ∀ (x : RegIx) (s : State),
    decode (BitVec.ofNat 16 (0xF029 + x.val * 256)) = .instr (.ldFVx x) ∧
    ∃ t, exec (.ldFVx x) s = .next t ∧ t.i.toNat = 5 * (s.reg x).toNat % 4096 ∧
      t.i.toNat = 5 * (s.reg x).toNat ∧ ((s.reg x).toNat ≤ 15 → t.i.toNat + 4 ≤ 0x04F) ∧ t.pc.toNat = (s.pc.toNat + 2) % 65536 ∧ FrameExcept [.index, .pc] s t

/-- LD B, Vx completes in every state: the bytes at I, I + 1 and I + 2 (each mod 4096) read as the hundreds, tens
and ones of Vx, every other byte reads as before, I and VF are not changed, PC = PC + 2 mod 65536, and every
other part of the state is unchanged; the word 0xF033 | x<<8 decodes to it. (44_index_memory.md (LD B),
20_memory.md section 2) -/
def Obligations.DecimalDigitsAreStored : Prop :=
  ∀ (x : RegIx) (s : State),
    decode (BitVec.ofNat 16 (0xF033 + x.val * 256)) = .instr (.ldBVx x) ∧
    (∀ k, (s.indexAddr k).toNat = (s.i.toNat + k) % 4096) ∧
    ∃ t, exec (.ldBVx x) s = .next t ∧
      (t.mem.read (s.indexAddr 0)).toNat = (s.reg x).toNat / 100 ∧
      (t.mem.read (s.indexAddr 1)).toNat = (s.reg x).toNat / 10 % 10 ∧
      (t.mem.read (s.indexAddr 2)).toNat = (s.reg x).toNat % 10 ∧
      (∀ a : Addr, a ≠ s.indexAddr 0 → a ≠ s.indexAddr 1 → a ≠ s.indexAddr 2 → t.mem.read a = s.mem.read a) ∧
      t.pc.toNat = (s.pc.toNat + 2) % 65536 ∧ FrameExcept [.mem, .pc] s t

/-- LD [I], Vx completes in every state: for each k <= x the byte at (I + k) mod 4096, from the old I, reads as Vk;
every other byte reads as before; I = (I + x + 1) mod 4096; PC = PC + 2 mod 65536; every other part of the state
is unchanged; the word 0xF055 | x<<8 decodes to it. The advance is the resolution of conflict C3.
(44_index_memory.md (LD [I], Vx), 90_conflicts.md C3) -/
def Obligations.RegistersAreStoredFromI : Prop :=
  ∀ (x : RegIx) (s : State),
    decode (BitVec.ofNat 16 (0xF055 + x.val * 256)) = .instr (.ldMIVx x) ∧
    (∀ k, (s.indexAddr k).toNat = (s.i.toNat + k) % 4096) ∧
    ∃ t, exec (.ldMIVx x) s = .next t ∧
      (∀ k : RegIx, k ≤ x → t.mem.read (s.indexAddr k.val) = s.reg k) ∧
      (∀ a : Addr, (∀ k : RegIx, k ≤ x → a ≠ s.indexAddr k.val) → t.mem.read a = s.mem.read a) ∧
      t.i.toNat = (s.i.toNat + x.val + 1) % 4096 ∧ t.pc.toNat = (s.pc.toNat + 2) % 65536 ∧ FrameExcept [.mem, .index, .pc] s t

/-- LD Vx, [I] completes in every state: for each k <= x, Vk is the byte at (I + k) mod 4096 from the old I (VF too
when x = F); the registers above x are unchanged; I = (I + x + 1) mod 4096; PC = PC + 2 mod 65536; memory and
every other part of the state is unchanged; the word 0xF065 | x<<8 decodes to it. (R225) -/
def Obligations.RegistersAreLoadedFromI : Prop :=
  ∀ (x : RegIx) (s : State),
    decode (BitVec.ofNat 16 (0xF065 + x.val * 256)) = .instr (.ldVxMI x) ∧
    ∃ t, exec (.ldVxMI x) s = .next t ∧
      (∀ k : RegIx, k ≤ x → t.reg k = s.mem.read (BitVec.ofNat 12 ((s.i.toNat + k.val) % 4096))) ∧
      (∀ k : RegIx, x < k → t.reg k = s.reg k) ∧
      t.i.toNat = (s.i.toNat + x.val + 1) % 4096 ∧ t.pc.toNat = (s.pc.toNat + 2) % 65536 ∧ FrameExcept [.regs, .index, .pc] s t

/-- If Fx55 with x >= 1 runs in RUNNING at PC <= 0xFFC with I = PC + 2, and V0 and V1 form a word that decodes to i,
then the next STEP after it runs i: the fetch sees the bytes just stored. The coherence is the spec's own choice
(D25). (20_memory.md section 5 (instruction-fetch coherence), 92_eei_decisions.md D25, 95_test_vectors.md P6) -/
def Obligations.StoredCodeRunsAtTheNextStep : Prop :=
  ∀ (x : RegIx) (s : State) (i : Instr), 1 ≤ x.val → s.execState = .running → s.pc.toNat ≤ 0xFFC →
    s.i.toNat = s.pc.toNat + 2 → decode (s.reg 0 ++ s.reg 1) = .instr i →
    ∃ t, exec (.ldMIVx x) s = .next t ∧ t.fetchWord = s.reg 0 ++ s.reg 1 ∧ step t = exec i t

/-- CLS completes in every state: all 2048 pixels are 0, PC = PC + 2 mod 65536, and every other part of the state is
unchanged; the word 0x00E0 decodes to it. (R250) -/
def Obligations.ClearUnsetsEveryPixel : Prop :=
  ∀ s : State, decode 0x00E0 = .instr .cls ∧
    ∃ t, exec .cls s = .next t ∧ (∀ px py, t.fb.pixel px py = false) ∧ t.pc.toNat = (s.pc.toNat + 2) % 65536 ∧ FrameExcept [.fb, .pc] s t

/-- DRW completes in every state: every pixel (px, py) of the 64x32 frame becomes its old value XOR the sprite bit
there (none outside the sprite; nothing wraps), VF = 1 exactly when some pixel under a 1 bit was set before,
every other register is unchanged (the position uses the old VF), PC = PC + 2 mod 65536, and every other part of
the state, I and memory too, is unchanged. The sprite bits are read off the rules, not the drawing loop. Bit
order, address wrap and operand sampling are the spec's own choices (D17, D6, D9). (45_display.md (DRW, sprite
layout, clipping, collision detector), 92_eei_decisions.md D6, D9, D17, 90_conflicts.md C7) -/
def Obligations.DrawXorsSpriteAndDetectsCollision : Prop :=
  ∀ (x y : RegIx) (n : BitVec 4) (s : State),
    decode (BitVec.ofNat 16 (0xD000 + x.val * 256 + y.val * 16 + n.toNat)) = .instr (.drw x y n) ∧
    ∃ t, exec (.drw x y n) s = .next t ∧
      (∀ (px : Fin 64) (py : Fin 32),
        t.fb.pixel px py = (s.fb.pixel px py ^^ spriteOn s x y n px.val py.val)) ∧
      (t.reg 15 = 0 ∨ t.reg 15 = 1) ∧
      (t.reg 15 = 1 ↔ ∃ (px : Fin 64) (py : Fin 32),
        spriteOn s x y n px.val py.val = true ∧ s.fb.pixel px py = true) ∧
      RegsExcept [15] s t ∧ t.pc.toNat = (s.pc.toNat + 2) % 65536 ∧ FrameExcept [.fb, .regs, .pc] s t

/-- For x and y other than F, if a DRW takes s to t and the same DRW takes u to r, where u has t's registers, I,
memory and framebuffer, then r has the framebuffer of s; and after the second draw VF = 1 exactly when some on-
screen 1 bit of the sprite falls on a pixel that was unset in s, else 0. If the first draw met no set pixel (VF
= 0 after it), this is the spec's own sentence on two draws: VF = 1 exactly when the sprite has an on-screen 1
bit; SecondDrawCollidesWheneverSpriteIsVisible states that sentence without the premise (log entry 18).
(45_display.md (DRW, XOR self-inverse), 95_test_vectors.md S3) -/
def Obligations.DrawTwiceRestoresFramebuffer : Prop :=
  ∀ (x y : RegIx) (n : BitVec 4) (s t u r : State), x ≠ 15 → y ≠ 15 →
    exec (.drw x y n) s = .next t → u.v = t.v → u.i = t.i → u.mem = t.mem → u.fb = t.fb →
    exec (.drw x y n) u = .next r →
    r.fb = s.fb ∧
      r.reg 15 = (if ∃ (px : Fin 64) (py : Fin 32),
        spriteOn s x y n px.val py.val = true ∧ s.fb.pixel px py = false then 1 else 0) ∧
      (t.reg 15 = 0 → r.reg 15 =
        (if ∃ (px : Fin 64) (py : Fin 32), spriteOn s x y n px.val py.val = true then 1 else 0))

/-- The sentence of R255 as it stands: for x and y other than F, the second of two consecutive identical DRWs leaves
VF = 1 exactly when the sprite has at least one on-screen 1 bit, whatever the framebuffer was before the first.
The spec marks the sentence as derived from R251 and R254, which the model follows (log entry 18).
(45_display.md (XOR self-inverse)) -/
def Obligations.SecondDrawCollidesWheneverSpriteIsVisible : Prop :=
  ∀ (x y : RegIx) (n : BitVec 4) (s t u r : State), x ≠ 15 → y ≠ 15 →
    exec (.drw x y n) s = .next t → u.v = t.v → u.i = t.i → u.mem = t.mem → u.fb = t.fb →
    exec (.drw x y n) u = .next r →
    r.reg 15 = (if ∃ (px : Fin 64) (py : Fin 32), spriteOn s x y n px.val py.val = true then 1 else 0)

/-- LD Vx, DT completes in every state: Vx = DT (VF too when x = F), every other register is unchanged, PC = PC + 2
mod 65536, and every other part of the state, DT too, is unchanged; the word 0xF007 | x<<8 decodes to it. (R280) -/
def Obligations.ReadDelayTimer : Prop :=
  ∀ (x : RegIx) (s : State),
    decode (BitVec.ofNat 16 (0xF007 + x.val * 256)) = .instr (.ldVxDt x) ∧
    ∃ t, exec (.ldVxDt x) s = .next t ∧ t.reg x = s.dt ∧ RegsExcept [x] s t ∧ t.pc.toNat = (s.pc.toNat + 2) % 65536 ∧ FrameExcept [.regs, .pc] s t

/-- LD DT, Vx completes in every state: DT = Vx, PC = PC + 2 mod 65536, and every other part of the state, TIMER_REF
too, is unchanged; the word 0xF015 | x<<8 decodes to it. (46_timers_keys.md (LD DT, Vx)) -/
def Obligations.SetDelayTimer : Prop :=
  ∀ (x : RegIx) (s : State),
    decode (BitVec.ofNat 16 (0xF015 + x.val * 256)) = .instr (.ldDtVx x) ∧
    ∃ t, exec (.ldDtVx x) s = .next t ∧ t.dt = s.reg x ∧ t.pc.toNat = (s.pc.toNat + 2) % 65536 ∧ FrameExcept [.dt, .pc] s t

/-- LD ST, Vx completes in every state: ST = Vx, TONE = 1 after it exactly when Vx != 0, and with Vx = 1 the tone
lasts until the next gated tick; PC = PC + 2 mod 65536, and every other part of the state is unchanged; the word
0xF018 | x<<8 decodes to it. (R282) -/
def Obligations.SetSoundTimerDrivesTone : Prop :=
  ∀ (x : RegIx) (s : State),
    decode (BitVec.ofNat 16 (0xF018 + x.val * 256)) = .instr (.ldStVx x) ∧
    ∃ t, exec (.ldStVx x) s = .next t ∧ t.st = s.reg x ∧ (t.tone = true ↔ s.reg x ≠ 0) ∧
      (s.reg x = 1 → ∀ now, (hostTimerPoll false now t).tone = true ∧ (hostTimerPoll true now t).tone = false) ∧
      t.pc.toNat = (s.pc.toNat + 2) % 65536 ∧ FrameExcept [.st, .pc] s t

/-- LD Vx, K completes in every state: EXEC = AWAITING_KEY(x), and every other part of the state, PC and Vx too, is
unchanged; a STEP after it changes nothing; a TIMER_POLL after it counts DT down; the word 0xF00A | x<<8 decodes
to it. (46_timers_keys.md (LD Vx, K), 40_step.md (STEP outside RUNNING)) -/
def Obligations.KeyWaitEntersTheLatch : Prop :=
  ∀ (x : RegIx) (s : State),
    decode (BitVec.ofNat 16 (0xF00A + x.val * 256)) = .instr (.ldVxK x) ∧
    ∃ t, exec (.ldVxK x) s = .next t ∧ t.execState = .awaitingKey x ∧ FrameExcept [.execState] s t ∧
      step t = .next t ∧ ∀ now, (hostTimerPoll true now t).dt.toNat = t.dt.toNat - 1

/-- In AWAITING_KEY(t), KEY_RELEASE(k) gives V[t] = k, PC = PC + 2 mod 65536 and EXEC = RUNNING, and every other
register and part is unchanged; in RUNNING and HALTED it leaves the state as it is, so a second release has no
effect. That it has no effect outside the latch is the spec's own choice (D12). (46_timers_keys.md
(KEY_RELEASE), 92_eei_decisions.md D12) -/
def Obligations.KeyReleaseResolvesTheLatch : Prop :=
  ∀ (k : KeyIx) (s : State),
    (∀ x, s.execState = .awaitingKey x →
      let t := hostKeyRelease k s
      (t.reg x).toNat = k.val ∧ RegsExcept [x] s t ∧ t.pc.toNat = (s.pc.toNat + 2) % 65536 ∧
        t.execState = .running ∧ FrameExcept [.regs, .pc, .execState] s t ∧ ∀ j, hostKeyRelease j t = t) ∧
    (s.isAwaiting = false → hostKeyRelease k s = s)

/-- In every state, TIMER_POLL(1) gives DT and ST each one less but never below 0, sets TIMER_REF to now and changes
nothing else; TIMER_POLL(0) changes nothing. One decrement a poll and the independence of EXEC are the spec's
own choices (D13). (60_exceptions.md section 3 (TIMER_POLL), 92_eei_decisions.md D13) -/
def Obligations.TimerPollCountsDownToZero : Prop :=
  ∀ (now : Nat) (s : State),
    let t := hostTimerPoll true now s
    t.dt.toNat = (if 0 < s.dt.toNat then s.dt.toNat - 1 else 0) ∧
    t.st.toNat = (if 0 < s.st.toNat then s.st.toNat - 1 else 0) ∧ t.timerRef = now ∧
    FrameExcept [.dt, .st, .timerRef] s t ∧ hostTimerPoll false now s = s

/-- If a poll at instant a and a poll at instant b, with a <= b and 60·(b - a) less than a second, choose elapsed
from the clock, then DT and ST fall by at most 1 in total. Counting instants in nanoseconds is the model's
choice (log entry 3). (95_test_vectors.md S9, 60_exceptions.md section 3 (TIMER_POLL)) -/
def Obligations.PollsWithinAPeriodCountOnce : Prop :=
  ∀ (s : State) (a b : Nat), s.timerRef ≤ a → a ≤ b → 60 * (b - a) < nanosPerSecond →
    s.dt.toNat ≤ (hostTimerPollAt b (hostTimerPollAt a s)).dt.toNat + 1 ∧
    s.st.toNat ≤ (hostTimerPollAt b (hostTimerPollAt a s)).st.toNat + 1

/-- In every state, SET_KEYS(k) makes KEY[i] = bit i of k for all 16 keys and changes nothing else, EXEC too, even
when a key goes from 1 to 0. From AWAITING_KEY, KEY_RELEASE gives RUNNING, and every other operation but RESET,
which rebuilds the state, leaves EXEC as it is. (R314) -/
def Obligations.SetKeysWritesOnlyTheKeypad : Prop :=
  ∀ (k : BitVec 16) (s : State),
    ((∀ i : KeyIx, (hostSetKeys k s).keyPressed i = k.getLsbD i.val) ∧ FrameExcept [.key] s (hostSetKeys k s)) ∧
    (s.isAwaiting = true →
      (∀ j, (hostKeyRelease j s).execState = .running) ∧
      ∀ (p : Params) (op : Op) (t : State) (r : Reply), (∀ j, op ≠ .keyRelease j) → (∀ n, op ≠ .reset n) →
        perform p op s = .next (t, r) → t.execState = s.execState)

/-- In AWAITING_KEY and in HALTED a STEP changes nothing and TIMER_POLL(1) still counts the timers down. From
AWAITING_KEY(t) every operation but KEY_RELEASE and RESET keeps EXEC, and KEY_RELEASE keeps all state but V[t],
PC and EXEC. From HALTED every operation but RESET keeps EXEC. RESET rebuilds all of the spec's state: whatever
came before, it gives the constructed state, in which only the model's own count of random draws is the one
before. That RESET keeps this count is the model's choice (log entry 13). In HALTED a host that keeps its duties
has no STEP, until a RESET: this is the model's reading of the duty to stop the run (log entry 22, DEDUCED),
while the engine itself takes a STEP in any state, HALTED too, as the first and third clauses say.
(60_exceptions.md section 4 (wait and power states), 60_exceptions.md section 3 (host duties),
92_eei_decisions.md D11, D12, D13, D29) -/
def Obligations.WaitStatesEndOnlyAsListed : Prop :=
  ∀ (p : Params) (s : State),
    (s.execState ≠ .running → step s = .next s ∧
      ∀ now, (hostTimerPoll true now s).dt.toNat = s.dt.toNat - 1 ∧
        (hostTimerPoll true now s).st.toNat = s.st.toNat - 1) ∧
    (∀ x, s.execState = .awaitingKey x →
      (∀ op t r, (∀ k, op ≠ .keyRelease k) → (∀ now, op ≠ .reset now) → perform p op s = .next (t, r) →
        t.execState = s.execState) ∧
      ∀ k, RegsExcept [x] s (hostKeyRelease k s) ∧ FrameExcept [.regs, .pc, .execState] s (hostKeyRelease k s)) ∧
    (∀ c, s.execState = .halted c → ∀ op t r, (∀ now, op ≠ .reset now) → perform p op s = .next (t, r) →
      t.execState = s.execState) ∧
    (∀ now, hostReset p now s = State.construct p now s.draws) ∧
    (s.isFailed = true → ∀ (f : Bool) (ops : List Op), (∀ now, .reset now ∉ ops) →
      runOps p (ops ++ [.step]) ⟨s, f⟩ = none)

/-- In every state, LOAD of len <= 3584 bytes returns LOAD_OK, makes the byte at 0x200 + j read as b[j] for each j <
len, leaves every other byte as it was and changes nothing else; LOAD of more returns PROGRAM_TOO_LARGE and
leaves the state as it is, and after it a host that keeps its duties has no STEP, whatever it does in between,
until a RESET. That LOAD is allowed in any state is the spec's own choice (D21). (60_exceptions.md section 3
(LOAD, host duties), 92_eei_decisions.md D21, D29, 95_test_vectors.md S5) -/
def Obligations.LoadCopiesTheImage : Prop :=
  ∀ (p : Params) (b : List Byte) (s : State),
    (b.length ≤ 3584 →
      ∃ t, perform p (.load b) s = .next (t, .loadOk) ∧
        (∀ (j : Nat) (h : j < b.length), t.mem.read (BitVec.ofNat 12 (0x200 + j)) = b[j]) ∧
        (∀ a : Addr, a.toNat < 0x200 ∨ 0x200 + b.length ≤ a.toNat → t.mem.read a = s.mem.read a) ∧
        FrameExcept [.mem] s t) ∧
    (3584 < b.length → perform p (.load b) s = .next (s, .programTooLarge) ∧
      ∀ (f : Bool) (ops : List Op), (∀ now, .reset now ∉ ops) →
        runOps p (.load b :: (ops ++ [.step])) ⟨s, f⟩ = none)

/-- For every FONT, instant and earlier state, RESET gives V0-VF = 0, I = 0, PC = 0x200, SP = 0, an all-zero stack,
DT = ST = 0, memory reading as FONT in 0x000-0x04F and as 0 from 0x050 to 0xFFF, all keys released, a clear
framebuffer, EXEC = RUNNING, TIMER_REF = now, STATUS = 0 and TONE = 0. With the default FONT at instant 0 this
is State.reset. The keypad value is the spec's own choice (D20); the instant and the count of draws are the
model's (log entries 3, 13). (70_reset_and_hazards.md section 1, 92_eei_decisions.md D19, D20) -/
def Obligations.ResetGivesConstructionValues : Prop :=
  (∀ (p : Params) (now : Nat) (s : State),
    let t := hostReset p now s
    (∀ x, t.reg x = 0) ∧ t.i = 0 ∧ t.pc = 0x200 ∧ t.sp = 0 ∧ (∀ k : Fin 16, t.stack[k] = 0) ∧ t.dt = 0 ∧ t.st = 0 ∧
    (∀ (d : Fin 16) (r : Fin 5), t.mem.read (BitVec.ofNat 12 (5 * d.val + r.val)) = p.font[d][r]) ∧
    (∀ a : Addr, 0x050 ≤ a.toNat → t.mem.read a = 0) ∧ (∀ k, t.keyPressed k = false) ∧
    (∀ px py, t.fb.pixel px py = false) ∧ t.execState = .running ∧ t.timerRef = now ∧ t.draws = s.draws ∧
    t.status = 0 ∧ t.tone = false) ∧
  State.construct defaultParams 0 0 = State.reset

/-- In every state STATUS is 0x00 in RUNNING, 0x01 + 4·t in AWAITING_KEY(t), and 0x06, 0x0A, 0x0E, 0x12, 0x16 in
HALTED with codes 1 to 5; TONE is 1 exactly when ST != 0; bit py·64 + px of the 2048-bit FB output is the pixel
(px, py), and every bit k is the pixel (k mod 64, k div 64). The layouts and numbers are the spec's own choices
(D2, D3, D14, D18). (10_state.md section 10 (STATUS), 60_exceptions.md (halt codes, TONE, FB output),
92_eei_decisions.md D2, D3, D14, D18) -/
def Obligations.OutputsShowTheState : Prop :=
  ∀ s : State,
    ((s.execState = .running → s.status = 0x00) ∧
      (∀ x, s.execState = .awaitingKey x → s.status.toNat = 1 + 4 * x.val) ∧
      (s.execState = .halted .invalidOpcode → s.status = 0x06) ∧
      (s.execState = .halted .stackOverflow → s.status = 0x0A) ∧
      (s.execState = .halted .stackUnderflow → s.status = 0x0E) ∧
      (s.execState = .halted .fetchOutOfRange → s.status = 0x12) ∧
      (s.execState = .halted .keyIndexOutOfRange → s.status = 0x16)) ∧
    (s.tone = true ↔ s.st ≠ 0) ∧
    (∀ (px : Fin 64) (py : Fin 32), s.fbPort[py.val * 64 + px.val]? = some (s.fb.pixel px py)) ∧
    (∀ k : Fin 2048, ∃ (px : Fin 64) (py : Fin 32), k.val = py.val * 64 + px.val ∧ s.fbPort[k] = s.fb.pixel px py)

/-- For every state that is RUNNING with PC <= 0xFFE and the word 0x1000 | PC at PC (a quiescent self-jump), any
number k of STEPs answers that same state. The notion of a quiescent state is the spec's own (D28).
(60_exceptions.md section 4 (end of a run), 41_control_transfer.md (JP), 92_eei_decisions.md D28) -/
def Obligations.SelfJumpRepeatsForever : Prop :=
  ∀ (s : State) (k : Nat), s.atSelfJump = true → Sys2Proof.core.run k s = .next s

/-- For memories in the model's canonical form (rising addresses below 4096, no entry equal to what an unlisted
address reads as), equal reads at all 4096 addresses give equal lists. The form is the model's own
representation of MEM (log entry 1). (20_memory.md sections 1 and 2) -/
def Obligations.CanonicalMemoriesWithEqualReadsAreEqual : Prop :=
  ∀ m n : Memory, m.wf → n.wf → (∀ a, m.read a = n.read a) → m = n

/-- State.reset and every constructed state have I <= 0xFFF, SP <= 16, PC <= 0x1002, stack entries <= 0x1000 and
memory in canonical form, and no latch is set. The canonical form is the model's own clause (log entry 1).
(10_state.md section 12 (invariants), 70_reset_and_hazards.md section 1) -/
def Obligations.ResetMeetsTheInvariant : Prop :=
  State.reset.Inv ∧ State.reset.latchMatches ∧
  ∀ (p : Params) (now draws : Nat), (State.construct p now draws).Inv ∧ (State.construct p now draws).latchMatches

/-- For every state with I <= 0xFFF, SP <= 16, PC <= 0x1002, every stack entry <= 0x1000, PC <= 0xFFE while a key is
awaited, and memory in canonical form, the next state of a step has all of these. The spec marks the bounds as
derived; the canonical form is the model's own clause (log entry 1). (10_state.md section 12 (invariants),
10_state.md section 4 (PC), 41_control_transfer.md (general properties)) -/
def Obligations.StepKeepsTheInvariant : Prop :=
  ∀ s t : State, s.Inv → step s = .next t → t.Inv

/-- For every FONT, every state with the invariant of StepKeepsTheInvariant and every operation RESET, LOAD, STEP,
TIMER_POLL, SET_KEYS or KEY_RELEASE with any inputs, the operation answers a next state, and every next state it
answers has the invariant. So every state that a finite sequence of operations reaches from a constructed state,
at any instant, has it, both for a host that keeps its duties and for one that does not, and no such sequence
stops in a fault or a refusal. A host that keeps its duties has a move for every operation but STEP at any time,
and for STEP under the invariant when no LOAD was refused and EXEC is not HALTED. The canonical form of memory
in the invariant is the model's choice (log entry 1), and so are the host without duties and the reading that a
host has no STEP in HALTED (log entry 22). (10_state.md section 12 (invariants), 60_exceptions.md section 3
(interleaving, host duties), 92_eei_decisions.md D29) -/
def Obligations.HostOperationsKeepTheInvariant : Prop :=
  (∀ (p : Params) (op : Op) (s : State), s.Inv → ∃ t r, perform p op s = .next (t, r)) ∧
  (∀ (p : Params) (op : Op) (s t : State) (r : Reply), s.Inv → perform p op s = .next (t, r) → t.Inv) ∧
  (∀ (p : Params) (s : State), Reachable p s → s.Inv) ∧
  (∀ (p : Params) (s : State), ReachableByAnyHost p s → s.Inv) ∧
  (∀ (p : Params) (now draws : Nat) (ops : List Op), ∃ t, runAnyOps p ops (State.construct p now draws) = .next t) ∧
  ∀ (p : Params) (op : Op) (c : Session), (op = .step → c.loadFailed = false ∧ c.engine.isFailed = false ∧ c.engine.Inv) →
    ∃ d r, hostMove p op c = some (.next (d, r))

/-- A step of any state with SP <= 16 answers a next state: the model's one fault cannot occur there; and no step of
any state is refused. SP <= 16 is an invariant (StepKeepsTheInvariant). (40_step.md (STEP), 10_state.md section
12 (invariants)) -/
def Obligations.StepAnswersUnderTheInvariant : Prop :=
  (∀ s : State, s.sp.toNat ≤ 16 → ∃ t, step s = .next t) ∧ ∀ (s : State) (r : Refusal), step s ≠ .refused r

/-- If, whenever EXEC is AWAITING_KEY(t), the word at PC decodes to Fx0A with x = t, then the same holds after a
step; SET_KEYS, TIMER_POLL and KEY_RELEASE keep it too. A LOAD may break it, as the spec says. (10_state.md
section 12 (invariants), 46_timers_keys.md (LD Vx, K)) -/
def Obligations.StepKeepsTheLatchWord : Prop :=
  ∀ s : State, s.latchMatches →
    (∀ t, step s = .next t → t.latchMatches) ∧ (∀ k, (hostSetKeys k s).latchMatches) ∧
    (∀ e now, (hostTimerPoll e now s).latchMatches) ∧ ∀ k, (hostKeyRelease k s).latchMatches
end

