-- ==== Sys2Proof/Laws/Decode.lean ====
section
/-! SUPPORT. The laws of the instruction word: the fields of each format, and the words as numbers. -/

namespace Sys2Proof

/-! ### Fields as numbers -/

theorem fieldOp_toNat (w : Word) : (fieldOp w).toNat = w.toNat / 4096 := by
  simp only [fieldOp, BitVec.extractLsb'_toNat, Nat.shiftRight_eq_div_pow]; omega

theorem fieldX_val (w : Word) : (fieldX w).val = w.toNat / 256 % 16 := by
  show (w.extractLsb' 8 4).toNat = _
  simp [BitVec.extractLsb'_toNat, Nat.shiftRight_eq_div_pow]

theorem fieldY_val (w : Word) : (fieldY w).val = w.toNat / 16 % 16 := by
  show (w.extractLsb' 4 4).toNat = _
  simp [BitVec.extractLsb'_toNat, Nat.shiftRight_eq_div_pow]

theorem fieldN_toNat (w : Word) : (fieldN w).toNat = w.toNat % 16 := by
  simp [fieldN, BitVec.extractLsb'_toNat]

theorem fieldNN_toNat (w : Word) : (fieldNN w).toNat = w.toNat % 256 := by
  simp [fieldNN, BitVec.extractLsb'_toNat]

theorem fieldNNN_toNat (w : Word) : (fieldNNN w).toNat = w.toNat % 4096 := by
  simp [fieldNNN, BitVec.extractLsb'_toNat]

/-! ### Formats as numbers -/

theorem formatA_toNat (op : BitVec 4) (nnn : Addr) : (formatA op nnn).toNat = op.toNat * 4096 + nnn.toNat := by
  simp only [formatA, BitVec.toNat_append]
  rw [← Nat.shiftLeft_add_eq_or_of_lt (by omega), Nat.shiftLeft_eq]

theorem formatXNN_toNat (op : BitVec 4) (x : RegIx) (nn : Byte) :
    (formatXNN op x nn).toNat = op.toNat * 4096 + x.val * 256 + nn.toNat := by
  have hx : (BitVec.ofFin (w := 4) x).toNat = x.val := rfl
  simp only [formatXNN, BitVec.toNat_append, hx]
  rw [← Nat.shiftLeft_add_eq_or_of_lt (by omega), ← Nat.shiftLeft_add_eq_or_of_lt (by omega), Nat.shiftLeft_eq,
    Nat.shiftLeft_eq]
  omega

theorem formatXYN_toNat (op : BitVec 4) (x y : RegIx) (n : BitVec 4) :
    (formatXYN op x y n).toNat = op.toNat * 4096 + x.val * 256 + y.val * 16 + n.toNat := by
  have hx : (BitVec.ofFin (w := 4) x).toNat = x.val := rfl
  have hy : (BitVec.ofFin (w := 4) y).toNat = y.val := rfl
  simp only [formatXYN, BitVec.toNat_append, hx, hy]
  rw [← Nat.shiftLeft_add_eq_or_of_lt (by omega), ← Nat.shiftLeft_add_eq_or_of_lt (by omega),
    ← Nat.shiftLeft_add_eq_or_of_lt (by omega), Nat.shiftLeft_eq, Nat.shiftLeft_eq, Nat.shiftLeft_eq]
  omega

/-! ### Formats from numbers: the fixed bits plus the shifted fields (R101) -/

theorem ofNat_formatA (op : BitVec 4) (nnn : Addr) :
    BitVec.ofNat 16 (op.toNat * 4096 + nnn.toNat) = formatA op nnn := by
  apply BitVec.eq_of_toNat_eq; rw [formatA_toNat, BitVec.toNat_ofNat]; omega

theorem ofNat_formatXNN (op : BitVec 4) (x : RegIx) (nn : Byte) :
    BitVec.ofNat 16 (op.toNat * 4096 + x.val * 256 + nn.toNat) = formatXNN op x nn := by
  apply BitVec.eq_of_toNat_eq; rw [formatXNN_toNat, BitVec.toNat_ofNat]; omega

theorem ofNat_formatXYN (op : BitVec 4) (x y : RegIx) (n : BitVec 4) :
    BitVec.ofNat 16 (op.toNat * 4096 + x.val * 256 + y.val * 16 + n.toNat) = formatXYN op x y n := by
  apply BitVec.eq_of_toNat_eq; rw [formatXYN_toNat, BitVec.toNat_ofNat]; omega

/-! ### The fields of a format -/

theorem fieldOp_formatA (op : BitVec 4) (nnn : Addr) : fieldOp (formatA op nnn) = op := by
  apply BitVec.eq_of_toNat_eq; rw [fieldOp_toNat, formatA_toNat]; omega

theorem fieldNNN_formatA (op : BitVec 4) (nnn : Addr) : fieldNNN (formatA op nnn) = nnn := by
  apply BitVec.eq_of_toNat_eq; rw [fieldNNN_toNat, formatA_toNat]; omega

theorem fieldOp_formatXNN (op : BitVec 4) (x : RegIx) (nn : Byte) : fieldOp (formatXNN op x nn) = op := by
  apply BitVec.eq_of_toNat_eq; rw [fieldOp_toNat, formatXNN_toNat]; omega

theorem fieldX_formatXNN (op : BitVec 4) (x : RegIx) (nn : Byte) : fieldX (formatXNN op x nn) = x := by
  apply Fin.ext; rw [fieldX_val, formatXNN_toNat]; omega

theorem fieldNN_formatXNN (op : BitVec 4) (x : RegIx) (nn : Byte) : fieldNN (formatXNN op x nn) = nn := by
  apply BitVec.eq_of_toNat_eq; rw [fieldNN_toNat, formatXNN_toNat]; omega

theorem fieldOp_formatXYN (op : BitVec 4) (x y : RegIx) (n : BitVec 4) : fieldOp (formatXYN op x y n) = op := by
  apply BitVec.eq_of_toNat_eq; rw [fieldOp_toNat, formatXYN_toNat]; omega

theorem fieldX_formatXYN (op : BitVec 4) (x y : RegIx) (n : BitVec 4) : fieldX (formatXYN op x y n) = x := by
  apply Fin.ext; rw [fieldX_val, formatXYN_toNat]; omega

theorem fieldY_formatXYN (op : BitVec 4) (x y : RegIx) (n : BitVec 4) : fieldY (formatXYN op x y n) = y := by
  apply Fin.ext; rw [fieldY_val, formatXYN_toNat]; omega

theorem fieldN_formatXYN (op : BitVec 4) (x y : RegIx) (n : BitVec 4) : fieldN (formatXYN op x y n) = n := by
  apply BitVec.eq_of_toNat_eq; rw [fieldN_toNat, formatXYN_toNat]; omega

/-! ### Bytes and words -/

/-- The bytes of a word form it again (R68). -/
theorem wordOfBytes_bytesOfWord (w : Word) : wordOfBytes (w.extractLsb' 8 8) (w.extractLsb' 0 8) = w := by
  apply BitVec.eq_of_toNat_eq
  simp only [wordOfBytes, BitVec.toNat_append]
  rw [← Nat.shiftLeft_add_eq_or_of_lt (by omega), Nat.shiftLeft_eq]
  simp only [BitVec.extractLsb'_toNat, Nat.shiftRight_eq_div_pow]
  omega

/-- A word's bytes decode to what the word decodes to. -/
theorem decodeBytes_bytesOfWord (w : Word) : decodeBytes (bytesOfWord w) = decode w := by
  rw [bytesOfWord, decodeBytes, wordOfBytes_bytesOfWord]

/-- Decoding a word never finds it truncated (R96: total). -/
theorem decode_ne_truncated (w : Word) : decode w ≠ .truncated := by
  unfold decode decodeFamily0 decodeFamily8 decodeFamilyE decodeFamilyF
  repeat' split
  all_goals simp

/-! ### The masks of the opcode map -/

theorem formatA_bit (op : BitVec 4) (nnn : Addr) (k : Nat) :
    (formatA op nnn).getLsbD k = if k < 12 then nnn.getLsbD k else op.getLsbD (k - 12) :=
  BitVec.getLsbD_append

theorem formatXNN_bit (op : BitVec 4) (x : RegIx) (nn : Byte) (k : Nat) :
    (formatXNN op x nn).getLsbD k =
      if k < 8 then nn.getLsbD k
      else if k - 8 < 4 then (BitVec.ofFin (w := 4) x).getLsbD (k - 8) else op.getLsbD (k - 8 - 4) := by
  have h : (op ++ BitVec.ofFin (w := 4) x).getLsbD (k - 8) = _ := BitVec.getLsbD_append
  rw [← h]
  exact BitVec.getLsbD_append

theorem formatXYN_bit (op : BitVec 4) (x y : RegIx) (n : BitVec 4) (k : Nat) :
    (formatXYN op x y n).getLsbD k =
      if k < 4 then n.getLsbD k
      else (formatXNN op x (BitVec.ofFin (w := 4) y ++ (0 : BitVec 4))).getLsbD k := by
  have h : (formatXYN op x y n).getLsbD k =
      if k < 4 then n.getLsbD k
      else (op ++ BitVec.ofFin (w := 4) x ++ BitVec.ofFin (w := 4) y).getLsbD (k - 4) := BitVec.getLsbD_append
  rw [h, formatXNN_bit]
  split
  · rfl
  · rw [BitVec.getLsbD_append, BitVec.getLsbD_append, BitVec.getLsbD_append]
    have e : k - 4 - 4 = k - 8 := by omega
    by_cases h8 : k < 8
    · simp [h8, show ¬ k < 4 by omega, show k - 4 < 4 by omega]
    · simp [h8, show ¬ k - 4 < 4 by omega, e]

/-- The mask of formats A, XNN and XYN keeps the family (R92, R97). -/
theorem mask_family (w : Word) : w &&& 0xF000 = formatA (fieldOp w) 0 := by
  apply BitVec.eq_of_getLsbD_eq
  intro i hi
  rw [formatA_bit]
  interval_cases i <;> simp [fieldOp]

/-- The mask of format XY keeps the family and `n` (R92, R97). -/
theorem mask_family_n (w : Word) : w &&& 0xF00F = formatXYN (fieldOp w) 0 0 (fieldN w) := by
  apply BitVec.eq_of_getLsbD_eq
  intro i hi
  rw [formatXYN_bit, formatXNN_bit]
  interval_cases i <;> simp [fieldOp, fieldN]

/-- The mask of format XK keeps the family and `nn` (R92, R97). -/
theorem mask_family_nn (w : Word) : w &&& 0xF0FF = formatXNN (fieldOp w) 0 (fieldNN w) := by
  apply BitVec.eq_of_getLsbD_eq
  intro i hi
  rw [formatXNN_bit]
  interval_cases i <;> simp [fieldOp, fieldNN]

end Sys2Proof
end

