-- ==== Sys2Proof/Laws/Memory.lean ====
section
/-! SUPPORT. The laws of memory: read after write, blocks, and that every memory operation keeps the canonical form. -/

namespace Sys2Proof.Machine

/-! ### Read after write -/

theorem Memory.find_insert (m : Memory) (a a' : Nat) (b : Byte) :
    (m.insert a b).find a' = if a = a' then some b else m.find a' := by
  induction m with
  | nil => simp [Memory.insert, Memory.find]
  | cons c rest ih =>
    obtain ⟨k, v⟩ := c
    simp only [Memory.insert]
    split
    · simp only [Memory.find]
    · split
      · subst_vars; simp only [Memory.find]; split <;> rfl
      · simp only [Memory.find, ih]; split <;> split <;> simp_all

theorem Memory.find_filter (m : Memory) (a a' : Nat) :
    Memory.find (m.filter (fun c => c.1 ≠ a)) a' = if a = a' then none else m.find a' := by
  induction m with
  | nil => simp [Memory.find]
  | cons c rest ih =>
    obtain ⟨k, v⟩ := c
    by_cases hk : k = a <;> simp [Memory.find, hk] at ih ⊢ <;> grind

/-- A read after a write: the byte written at that address, the old byte at every other. -/
theorem Memory.read_write (m : Memory) (a a' : Addr) (b : Byte) :
    (m.write a b).read a' = if a = a' then b else m.read a' := by
  unfold Memory.write Memory.read
  split
  · rename_i hb
    rw [Memory.find_filter]
    by_cases h : a = a'
    · subst h; simp [hb]
    · simp [h, BitVec.toNat_inj]
  · rw [Memory.find_insert]
    by_cases h : a = a'
    · subst h; simp
    · simp [h, BitVec.toNat_inj]

@[simp] theorem Memory.read_write_same (m : Memory) (a : Addr) (b : Byte) : (m.write a b).read a = b := by
  simp [Memory.read_write]

theorem Memory.read_write_other (m : Memory) {a a' : Addr} (b : Byte) (h : a ≠ a') :
    (m.write a b).read a' = m.read a' := by
  simp [Memory.read_write, h]

/-! ### Blocks -/

/-- What a byte reads as after a block is written: the block's byte if the address lies in the block (counted from its start,
mod 4096), else the old byte. -/
theorem Memory.read_writeBlock (bs : List Byte) : ∀ (m : Memory) (a a' : Addr), bs.length ≤ 4096 →
    (m.writeBlock a bs).read a' = if h : (a' - a).toNat < bs.length then bs[(a' - a).toNat] else m.read a' := by
  induction bs with
  | nil => simp [Memory.writeBlock]
  | cons b rest ih =>
    intro m a a' hl
    simp only [List.length_cons] at hl
    rw [Memory.writeBlock, ih _ _ _ (by omega), Memory.read_write]
    by_cases h : a' = a
    · subst h
      simp [show ¬ 4095 < rest.length by omega]
    · have h1 : (a' - a).toNat = (a' - (a + 1)).toNat + 1 := by bv_omega
      have h2 : ¬ a = a' := fun e => h e.symm
      simp [h1, h2]

/-- Outside the written block every byte reads as before. -/
theorem Memory.read_writeBlock_outside (m : Memory) (a a' : Addr) (bs : List Byte) (hl : bs.length ≤ 4096)
    (h : bs.length ≤ (a' - a).toNat) : (m.writeBlock a bs).read a' = m.read a' := by
  rw [Memory.read_writeBlock bs m a a' hl, dif_neg (by omega)]

@[simp] theorem Memory.length_readBlock (n : Nat) : ∀ (m : Memory) (a : Addr), (m.readBlock a n).length = n := by
  induction n with
  | zero => simp [Memory.readBlock]
  | succ n ih => simp [Memory.readBlock, ih]

/-- Byte k of a block read is the byte k addresses on, mod 4096. -/
theorem Memory.getElem_readBlock (n : Nat) : ∀ (m : Memory) (a : Addr) (k : Nat) (h : k < (m.readBlock a n).length),
    (m.readBlock a n)[k] = m.read (a + BitVec.ofNat 12 k) := by
  induction n with
  | zero => intro m a k h; simp [Memory.readBlock] at h
  | succ n ih =>
    intro m a k h
    cases k with
    | zero => simp [Memory.readBlock]
    | succ k =>
      simp only [Memory.readBlock, List.getElem_cons_succ, ih]
      congr 1
      bv_omega

/-! ### The canonical form -/

theorem Memory.mem_insert (m : Memory) (a : Nat) (b : Byte) (c : Host.Cell) (h : c ∈ m.insert a b) :
    c = (a, b) ∨ c ∈ m := by
  induction m with
  | nil => simpa [Memory.insert] using h
  | cons d rest ih =>
    obtain ⟨k, v⟩ := d
    simp only [Memory.insert] at h
    split at h
    · simpa using h
    · split at h
      · simp only [List.mem_cons] at h ⊢; tauto
      · simp only [List.mem_cons] at h ⊢
        rcases h with h | h
        · tauto
        · rcases ih h with h | h <;> tauto

theorem Memory.insert_pairwise (m : Memory) (a : Nat) (b : Byte) (h : m.Pairwise (fun c d => c.1 < d.1)) :
    (m.insert a b).Pairwise (fun c d => c.1 < d.1) := by
  induction m with
  | nil => simp [Memory.insert]
  | cons d rest ih =>
    obtain ⟨k, v⟩ := d
    rw [List.pairwise_cons] at h
    simp only [Memory.insert]
    split
    · rename_i hlt
      refine List.pairwise_cons.2 ⟨?_, List.pairwise_cons.2 h⟩
      intro c hc
      rcases List.mem_cons.1 hc with rfl | hc
      · exact hlt
      · exact Nat.lt_trans hlt (h.1 c hc)
    · split
      · rename_i heq
        exact List.pairwise_cons.2 ⟨fun c hc => heq ▸ h.1 c hc, h.2⟩
      · refine List.pairwise_cons.2 ⟨?_, ih h.2⟩
        intro c hc
        rcases Memory.mem_insert _ _ _ _ hc with rfl | hc
        · show k < a; omega
        · exact h.1 c hc

/-- A write keeps the canonical form. -/
theorem Memory.write_wf (m : Memory) (a : Addr) (b : Byte) (h : m.wf) : (m.write a b).wf := by
  unfold Memory.write
  split
  · exact ⟨h.1.filter _, fun c hc => h.2 c (List.mem_of_mem_filter hc)⟩
  · rename_i hb
    refine ⟨Memory.insert_pairwise _ _ _ h.1, fun c hc => ?_⟩
    rcases Memory.mem_insert _ _ _ _ hc with rfl | hc
    · exact ⟨a.isLt, hb⟩
    · exact h.2 c hc

/-- A block write keeps the canonical form. -/
theorem Memory.writeBlock_wf (bs : List Byte) : ∀ (m : Memory) (a : Addr), m.wf → (m.writeBlock a bs).wf := by
  induction bs with
  | nil => exact fun m a h => h
  | cons b rest ih => exact fun m a h => ih _ _ (Memory.write_wf m a b h)

/-- Construction gives memory in canonical form, for every font. -/
theorem Memory.ofFont_wf (f : Font) : (Memory.ofFont f).wf := by
  unfold Memory.ofFont
  refine ⟨List.Pairwise.filter _ ?_, fun c hc => ?_⟩
  · rw [List.pairwise_map]
    exact List.pairwise_lt_range
  · simp only [List.mem_filter, List.mem_map, List.mem_range, decide_eq_true_eq] at hc
    obtain ⟨⟨a, ha, rfl⟩, hb⟩ := hc
    exact ⟨Nat.lt_trans ha (by decide), hb⟩

/-- The memory of the reset state is in canonical form. -/
theorem Memory.reset_wf : State.reset.mem.wf := by decide

theorem Memory.find_listed (f : Font) : ∀ (l : List Nat), l.Nodup → ∀ a,
    Memory.find ((l.map fun a => (a, fontByte f a)).filter fun c => c.2 ≠ Memory.base c.1) a =
      if a ∈ l ∧ fontByte f a ≠ Memory.base a then some (fontByte f a) else none := by
  intro l
  induction l with
  | nil => simp [Memory.find]
  | cons k rest ih =>
    intro hn a
    rw [List.nodup_cons] at hn
    have ih := ih hn.2 a
    by_cases hk : fontByte f k = Memory.base k
    · simp [hk] at ih ⊢; rw [ih]; grind
    · simp [hk, Memory.find] at ih ⊢; rw [ih]; grind

/-- After construction every byte is the one R62 gives: the font's in 0x000-0x04F and zero above. -/
theorem Memory.read_ofFont (f : Font) (a : Addr) : (Memory.ofFont f).read a = fontByte f a.toNat := by
  unfold Memory.read Memory.ofFont
  rw [Memory.find_listed f _ List.nodup_range]
  by_cases h : a.toNat < 80
  · simp only [List.mem_range, fontSize, h, true_and]; split <;> simp_all
  · simp [fontSize, h, Memory.base, fontByte]

end Sys2Proof.Machine
end

