-- ==== Sys2Proof/Laws/State.lean ====
section
/-! SUPPORT. The field laws of the state operations: one lemma per field per update, so that no proof unfolds a record
update; and the laws of the register read over them. -/

namespace Sys2Proof.Machine

variable (s : State)

/-! ### setReg -/

@[simp] theorem State.setReg_v (x : RegIx) (b : Byte) : (s.setReg x b).v = s.v.set x b := rfl
@[simp] theorem State.setReg_i (x : RegIx) (b : Byte) : (s.setReg x b).i = s.i := rfl
@[simp] theorem State.setReg_pc (x : RegIx) (b : Byte) : (s.setReg x b).pc = s.pc := rfl
@[simp] theorem State.setReg_sp (x : RegIx) (b : Byte) : (s.setReg x b).sp = s.sp := rfl
@[simp] theorem State.setReg_stack (x : RegIx) (b : Byte) : (s.setReg x b).stack = s.stack := rfl
@[simp] theorem State.setReg_dt (x : RegIx) (b : Byte) : (s.setReg x b).dt = s.dt := rfl
@[simp] theorem State.setReg_st (x : RegIx) (b : Byte) : (s.setReg x b).st = s.st := rfl
@[simp] theorem State.setReg_mem (x : RegIx) (b : Byte) : (s.setReg x b).mem = s.mem := rfl
@[simp] theorem State.setReg_key (x : RegIx) (b : Byte) : (s.setReg x b).key = s.key := rfl
@[simp] theorem State.setReg_fb (x : RegIx) (b : Byte) : (s.setReg x b).fb = s.fb := rfl
@[simp] theorem State.setReg_execState (x : RegIx) (b : Byte) : (s.setReg x b).execState = s.execState := rfl
@[simp] theorem State.setReg_timerRef (x : RegIx) (b : Byte) : (s.setReg x b).timerRef = s.timerRef := rfl
@[simp] theorem State.setReg_draws (x : RegIx) (b : Byte) : (s.setReg x b).draws = s.draws := rfl

/-! ### setI -/

@[simp] theorem State.setI_v (a : Nat) : (s.setI a).v = s.v := rfl
@[simp] theorem State.setI_i (a : Nat) : (s.setI a).i = BitVec.ofNat 16 (a % 4096) := rfl
@[simp] theorem State.setI_pc (a : Nat) : (s.setI a).pc = s.pc := rfl
@[simp] theorem State.setI_sp (a : Nat) : (s.setI a).sp = s.sp := rfl
@[simp] theorem State.setI_stack (a : Nat) : (s.setI a).stack = s.stack := rfl
@[simp] theorem State.setI_dt (a : Nat) : (s.setI a).dt = s.dt := rfl
@[simp] theorem State.setI_st (a : Nat) : (s.setI a).st = s.st := rfl
@[simp] theorem State.setI_mem (a : Nat) : (s.setI a).mem = s.mem := rfl
@[simp] theorem State.setI_key (a : Nat) : (s.setI a).key = s.key := rfl
@[simp] theorem State.setI_fb (a : Nat) : (s.setI a).fb = s.fb := rfl
@[simp] theorem State.setI_execState (a : Nat) : (s.setI a).execState = s.execState := rfl
@[simp] theorem State.setI_timerRef (a : Nat) : (s.setI a).timerRef = s.timerRef := rfl
@[simp] theorem State.setI_draws (a : Nat) : (s.setI a).draws = s.draws := rfl

/-! ### setPc -/

@[simp] theorem State.setPc_v (a : Nat) : (s.setPc a).v = s.v := rfl
@[simp] theorem State.setPc_i (a : Nat) : (s.setPc a).i = s.i := rfl
@[simp] theorem State.setPc_pc (a : Nat) : (s.setPc a).pc = BitVec.ofNat 16 a := rfl
@[simp] theorem State.setPc_sp (a : Nat) : (s.setPc a).sp = s.sp := rfl
@[simp] theorem State.setPc_stack (a : Nat) : (s.setPc a).stack = s.stack := rfl
@[simp] theorem State.setPc_dt (a : Nat) : (s.setPc a).dt = s.dt := rfl
@[simp] theorem State.setPc_st (a : Nat) : (s.setPc a).st = s.st := rfl
@[simp] theorem State.setPc_mem (a : Nat) : (s.setPc a).mem = s.mem := rfl
@[simp] theorem State.setPc_key (a : Nat) : (s.setPc a).key = s.key := rfl
@[simp] theorem State.setPc_fb (a : Nat) : (s.setPc a).fb = s.fb := rfl
@[simp] theorem State.setPc_execState (a : Nat) : (s.setPc a).execState = s.execState := rfl
@[simp] theorem State.setPc_timerRef (a : Nat) : (s.setPc a).timerRef = s.timerRef := rfl
@[simp] theorem State.setPc_draws (a : Nat) : (s.setPc a).draws = s.draws := rfl

/-! ### advance -/

@[simp] theorem State.advance_v : (s.advance).v = s.v := rfl
@[simp] theorem State.advance_i : (s.advance).i = s.i := rfl
@[simp] theorem State.advance_pc : (s.advance).pc = BitVec.ofNat 16 (s.pc.toNat + 2) := rfl
@[simp] theorem State.advance_sp : (s.advance).sp = s.sp := rfl
@[simp] theorem State.advance_stack : (s.advance).stack = s.stack := rfl
@[simp] theorem State.advance_dt : (s.advance).dt = s.dt := rfl
@[simp] theorem State.advance_st : (s.advance).st = s.st := rfl
@[simp] theorem State.advance_mem : (s.advance).mem = s.mem := rfl
@[simp] theorem State.advance_key : (s.advance).key = s.key := rfl
@[simp] theorem State.advance_fb : (s.advance).fb = s.fb := rfl
@[simp] theorem State.advance_execState : (s.advance).execState = s.execState := rfl
@[simp] theorem State.advance_timerRef : (s.advance).timerRef = s.timerRef := rfl
@[simp] theorem State.advance_draws : (s.advance).draws = s.draws := rfl

/-! ### skipIf -/

@[simp] theorem State.skipIf_v (c : Bool) : (s.skipIf c).v = s.v := rfl
@[simp] theorem State.skipIf_i (c : Bool) : (s.skipIf c).i = s.i := rfl
@[simp] theorem State.skipIf_pc (c : Bool) : (s.skipIf c).pc = BitVec.ofNat 16 (s.pc.toNat + if c then 4 else 2) := rfl
@[simp] theorem State.skipIf_sp (c : Bool) : (s.skipIf c).sp = s.sp := rfl
@[simp] theorem State.skipIf_stack (c : Bool) : (s.skipIf c).stack = s.stack := rfl
@[simp] theorem State.skipIf_dt (c : Bool) : (s.skipIf c).dt = s.dt := rfl
@[simp] theorem State.skipIf_st (c : Bool) : (s.skipIf c).st = s.st := rfl
@[simp] theorem State.skipIf_mem (c : Bool) : (s.skipIf c).mem = s.mem := rfl
@[simp] theorem State.skipIf_key (c : Bool) : (s.skipIf c).key = s.key := rfl
@[simp] theorem State.skipIf_fb (c : Bool) : (s.skipIf c).fb = s.fb := rfl
@[simp] theorem State.skipIf_execState (c : Bool) : (s.skipIf c).execState = s.execState := rfl
@[simp] theorem State.skipIf_timerRef (c : Bool) : (s.skipIf c).timerRef = s.timerRef := rfl
@[simp] theorem State.skipIf_draws (c : Bool) : (s.skipIf c).draws = s.draws := rfl

/-! ### setDt -/

@[simp] theorem State.setDt_v (b : Byte) : (s.setDt b).v = s.v := rfl
@[simp] theorem State.setDt_i (b : Byte) : (s.setDt b).i = s.i := rfl
@[simp] theorem State.setDt_pc (b : Byte) : (s.setDt b).pc = s.pc := rfl
@[simp] theorem State.setDt_sp (b : Byte) : (s.setDt b).sp = s.sp := rfl
@[simp] theorem State.setDt_stack (b : Byte) : (s.setDt b).stack = s.stack := rfl
@[simp] theorem State.setDt_dt (b : Byte) : (s.setDt b).dt = b := rfl
@[simp] theorem State.setDt_st (b : Byte) : (s.setDt b).st = s.st := rfl
@[simp] theorem State.setDt_mem (b : Byte) : (s.setDt b).mem = s.mem := rfl
@[simp] theorem State.setDt_key (b : Byte) : (s.setDt b).key = s.key := rfl
@[simp] theorem State.setDt_fb (b : Byte) : (s.setDt b).fb = s.fb := rfl
@[simp] theorem State.setDt_execState (b : Byte) : (s.setDt b).execState = s.execState := rfl
@[simp] theorem State.setDt_timerRef (b : Byte) : (s.setDt b).timerRef = s.timerRef := rfl
@[simp] theorem State.setDt_draws (b : Byte) : (s.setDt b).draws = s.draws := rfl

/-! ### setSt -/

@[simp] theorem State.setSt_v (b : Byte) : (s.setSt b).v = s.v := rfl
@[simp] theorem State.setSt_i (b : Byte) : (s.setSt b).i = s.i := rfl
@[simp] theorem State.setSt_pc (b : Byte) : (s.setSt b).pc = s.pc := rfl
@[simp] theorem State.setSt_sp (b : Byte) : (s.setSt b).sp = s.sp := rfl
@[simp] theorem State.setSt_stack (b : Byte) : (s.setSt b).stack = s.stack := rfl
@[simp] theorem State.setSt_dt (b : Byte) : (s.setSt b).dt = s.dt := rfl
@[simp] theorem State.setSt_st (b : Byte) : (s.setSt b).st = b := rfl
@[simp] theorem State.setSt_mem (b : Byte) : (s.setSt b).mem = s.mem := rfl
@[simp] theorem State.setSt_key (b : Byte) : (s.setSt b).key = s.key := rfl
@[simp] theorem State.setSt_fb (b : Byte) : (s.setSt b).fb = s.fb := rfl
@[simp] theorem State.setSt_execState (b : Byte) : (s.setSt b).execState = s.execState := rfl
@[simp] theorem State.setSt_timerRef (b : Byte) : (s.setSt b).timerRef = s.timerRef := rfl
@[simp] theorem State.setSt_draws (b : Byte) : (s.setSt b).draws = s.draws := rfl

/-! ### store -/

@[simp] theorem State.store_v (a : Addr) (bs : List Byte) : (s.store a bs).v = s.v := rfl
@[simp] theorem State.store_i (a : Addr) (bs : List Byte) : (s.store a bs).i = s.i := rfl
@[simp] theorem State.store_pc (a : Addr) (bs : List Byte) : (s.store a bs).pc = s.pc := rfl
@[simp] theorem State.store_sp (a : Addr) (bs : List Byte) : (s.store a bs).sp = s.sp := rfl
@[simp] theorem State.store_stack (a : Addr) (bs : List Byte) : (s.store a bs).stack = s.stack := rfl
@[simp] theorem State.store_dt (a : Addr) (bs : List Byte) : (s.store a bs).dt = s.dt := rfl
@[simp] theorem State.store_st (a : Addr) (bs : List Byte) : (s.store a bs).st = s.st := rfl
@[simp] theorem State.store_mem (a : Addr) (bs : List Byte) : (s.store a bs).mem = s.mem.writeBlock a bs := rfl
@[simp] theorem State.store_key (a : Addr) (bs : List Byte) : (s.store a bs).key = s.key := rfl
@[simp] theorem State.store_fb (a : Addr) (bs : List Byte) : (s.store a bs).fb = s.fb := rfl
@[simp] theorem State.store_execState (a : Addr) (bs : List Byte) : (s.store a bs).execState = s.execState := rfl
@[simp] theorem State.store_timerRef (a : Addr) (bs : List Byte) : (s.store a bs).timerRef = s.timerRef := rfl
@[simp] theorem State.store_draws (a : Addr) (bs : List Byte) : (s.store a bs).draws = s.draws := rfl

/-! ### loadRegs -/

@[simp] theorem State.loadRegs_v (x : RegIx) (b : Nat → Byte) : (s.loadRegs x b).v = Vector.ofFn fun k : RegIx => if k ≤ x then b k.val else s.v[k] := rfl
@[simp] theorem State.loadRegs_i (x : RegIx) (b : Nat → Byte) : (s.loadRegs x b).i = s.i := rfl
@[simp] theorem State.loadRegs_pc (x : RegIx) (b : Nat → Byte) : (s.loadRegs x b).pc = s.pc := rfl
@[simp] theorem State.loadRegs_sp (x : RegIx) (b : Nat → Byte) : (s.loadRegs x b).sp = s.sp := rfl
@[simp] theorem State.loadRegs_stack (x : RegIx) (b : Nat → Byte) : (s.loadRegs x b).stack = s.stack := rfl
@[simp] theorem State.loadRegs_dt (x : RegIx) (b : Nat → Byte) : (s.loadRegs x b).dt = s.dt := rfl
@[simp] theorem State.loadRegs_st (x : RegIx) (b : Nat → Byte) : (s.loadRegs x b).st = s.st := rfl
@[simp] theorem State.loadRegs_mem (x : RegIx) (b : Nat → Byte) : (s.loadRegs x b).mem = s.mem := rfl
@[simp] theorem State.loadRegs_key (x : RegIx) (b : Nat → Byte) : (s.loadRegs x b).key = s.key := rfl
@[simp] theorem State.loadRegs_fb (x : RegIx) (b : Nat → Byte) : (s.loadRegs x b).fb = s.fb := rfl
@[simp] theorem State.loadRegs_execState (x : RegIx) (b : Nat → Byte) : (s.loadRegs x b).execState = s.execState := rfl
@[simp] theorem State.loadRegs_timerRef (x : RegIx) (b : Nat → Byte) : (s.loadRegs x b).timerRef = s.timerRef := rfl
@[simp] theorem State.loadRegs_draws (x : RegIx) (b : Nat → Byte) : (s.loadRegs x b).draws = s.draws := rfl

/-! ### countDraw -/

@[simp] theorem State.countDraw_v : (s.countDraw).v = s.v := rfl
@[simp] theorem State.countDraw_i : (s.countDraw).i = s.i := rfl
@[simp] theorem State.countDraw_pc : (s.countDraw).pc = s.pc := rfl
@[simp] theorem State.countDraw_sp : (s.countDraw).sp = s.sp := rfl
@[simp] theorem State.countDraw_stack : (s.countDraw).stack = s.stack := rfl
@[simp] theorem State.countDraw_dt : (s.countDraw).dt = s.dt := rfl
@[simp] theorem State.countDraw_st : (s.countDraw).st = s.st := rfl
@[simp] theorem State.countDraw_mem : (s.countDraw).mem = s.mem := rfl
@[simp] theorem State.countDraw_key : (s.countDraw).key = s.key := rfl
@[simp] theorem State.countDraw_fb : (s.countDraw).fb = s.fb := rfl
@[simp] theorem State.countDraw_execState : (s.countDraw).execState = s.execState := rfl
@[simp] theorem State.countDraw_timerRef : (s.countDraw).timerRef = s.timerRef := rfl
@[simp] theorem State.countDraw_draws : (s.countDraw).draws = s.draws + 1 := rfl

/-! ### awaitKey -/

@[simp] theorem State.awaitKey_v (x : RegIx) : (s.awaitKey x).v = s.v := rfl
@[simp] theorem State.awaitKey_i (x : RegIx) : (s.awaitKey x).i = s.i := rfl
@[simp] theorem State.awaitKey_pc (x : RegIx) : (s.awaitKey x).pc = s.pc := rfl
@[simp] theorem State.awaitKey_sp (x : RegIx) : (s.awaitKey x).sp = s.sp := rfl
@[simp] theorem State.awaitKey_stack (x : RegIx) : (s.awaitKey x).stack = s.stack := rfl
@[simp] theorem State.awaitKey_dt (x : RegIx) : (s.awaitKey x).dt = s.dt := rfl
@[simp] theorem State.awaitKey_st (x : RegIx) : (s.awaitKey x).st = s.st := rfl
@[simp] theorem State.awaitKey_mem (x : RegIx) : (s.awaitKey x).mem = s.mem := rfl
@[simp] theorem State.awaitKey_key (x : RegIx) : (s.awaitKey x).key = s.key := rfl
@[simp] theorem State.awaitKey_fb (x : RegIx) : (s.awaitKey x).fb = s.fb := rfl
@[simp] theorem State.awaitKey_execState (x : RegIx) : (s.awaitKey x).execState = .awaitingKey x := rfl
@[simp] theorem State.awaitKey_timerRef (x : RegIx) : (s.awaitKey x).timerRef = s.timerRef := rfl
@[simp] theorem State.awaitKey_draws (x : RegIx) : (s.awaitKey x).draws = s.draws := rfl

/-! ### push -/

@[simp] theorem State.push_v (h : s.sp.toNat < 16) (a : Nat) : (s.push h a).v = s.v := rfl
@[simp] theorem State.push_i (h : s.sp.toNat < 16) (a : Nat) : (s.push h a).i = s.i := rfl
@[simp] theorem State.push_pc (h : s.sp.toNat < 16) (a : Nat) : (s.push h a).pc = s.pc := rfl
@[simp] theorem State.push_sp (h : s.sp.toNat < 16) (a : Nat) : (s.push h a).sp = BitVec.ofNat 5 (s.sp.toNat + 1) := rfl
@[simp] theorem State.push_stack (h : s.sp.toNat < 16) (a : Nat) : (s.push h a).stack = s.stack.set s.sp.toNat (BitVec.ofNat 16 a) := rfl
@[simp] theorem State.push_dt (h : s.sp.toNat < 16) (a : Nat) : (s.push h a).dt = s.dt := rfl
@[simp] theorem State.push_st (h : s.sp.toNat < 16) (a : Nat) : (s.push h a).st = s.st := rfl
@[simp] theorem State.push_mem (h : s.sp.toNat < 16) (a : Nat) : (s.push h a).mem = s.mem := rfl
@[simp] theorem State.push_key (h : s.sp.toNat < 16) (a : Nat) : (s.push h a).key = s.key := rfl
@[simp] theorem State.push_fb (h : s.sp.toNat < 16) (a : Nat) : (s.push h a).fb = s.fb := rfl
@[simp] theorem State.push_execState (h : s.sp.toNat < 16) (a : Nat) : (s.push h a).execState = s.execState := rfl
@[simp] theorem State.push_timerRef (h : s.sp.toNat < 16) (a : Nat) : (s.push h a).timerRef = s.timerRef := rfl
@[simp] theorem State.push_draws (h : s.sp.toNat < 16) (a : Nat) : (s.push h a).draws = s.draws := rfl

/-! ### popSp -/

@[simp] theorem State.popSp_v : (s.popSp).v = s.v := rfl
@[simp] theorem State.popSp_i : (s.popSp).i = s.i := rfl
@[simp] theorem State.popSp_pc : (s.popSp).pc = s.pc := rfl
@[simp] theorem State.popSp_sp : (s.popSp).sp = BitVec.ofNat 5 (s.sp.toNat - 1) := rfl
@[simp] theorem State.popSp_stack : (s.popSp).stack = s.stack := rfl
@[simp] theorem State.popSp_dt : (s.popSp).dt = s.dt := rfl
@[simp] theorem State.popSp_st : (s.popSp).st = s.st := rfl
@[simp] theorem State.popSp_mem : (s.popSp).mem = s.mem := rfl
@[simp] theorem State.popSp_key : (s.popSp).key = s.key := rfl
@[simp] theorem State.popSp_fb : (s.popSp).fb = s.fb := rfl
@[simp] theorem State.popSp_execState : (s.popSp).execState = s.execState := rfl
@[simp] theorem State.popSp_timerRef : (s.popSp).timerRef = s.timerRef := rfl
@[simp] theorem State.popSp_draws : (s.popSp).draws = s.draws := rfl

/-! ### raiseHalt -/

@[simp] theorem State.raiseHalt_v (c : HaltCode) : (s.raiseHalt c).v = s.v := rfl
@[simp] theorem State.raiseHalt_i (c : HaltCode) : (s.raiseHalt c).i = s.i := rfl
@[simp] theorem State.raiseHalt_pc (c : HaltCode) : (s.raiseHalt c).pc = s.pc := rfl
@[simp] theorem State.raiseHalt_sp (c : HaltCode) : (s.raiseHalt c).sp = s.sp := rfl
@[simp] theorem State.raiseHalt_stack (c : HaltCode) : (s.raiseHalt c).stack = s.stack := rfl
@[simp] theorem State.raiseHalt_dt (c : HaltCode) : (s.raiseHalt c).dt = s.dt := rfl
@[simp] theorem State.raiseHalt_st (c : HaltCode) : (s.raiseHalt c).st = s.st := rfl
@[simp] theorem State.raiseHalt_mem (c : HaltCode) : (s.raiseHalt c).mem = s.mem := rfl
@[simp] theorem State.raiseHalt_key (c : HaltCode) : (s.raiseHalt c).key = s.key := rfl
@[simp] theorem State.raiseHalt_fb (c : HaltCode) : (s.raiseHalt c).fb = s.fb := rfl
@[simp] theorem State.raiseHalt_execState (c : HaltCode) : (s.raiseHalt c).execState = .halted c := rfl
@[simp] theorem State.raiseHalt_timerRef (c : HaltCode) : (s.raiseHalt c).timerRef = s.timerRef := rfl
@[simp] theorem State.raiseHalt_draws (c : HaltCode) : (s.raiseHalt c).draws = s.draws := rfl

/-! ### setFb -/

@[simp] theorem State.setFb_v (fb : FrameBuffer) : (s.setFb fb).v = s.v := rfl
@[simp] theorem State.setFb_i (fb : FrameBuffer) : (s.setFb fb).i = s.i := rfl
@[simp] theorem State.setFb_pc (fb : FrameBuffer) : (s.setFb fb).pc = s.pc := rfl
@[simp] theorem State.setFb_sp (fb : FrameBuffer) : (s.setFb fb).sp = s.sp := rfl
@[simp] theorem State.setFb_stack (fb : FrameBuffer) : (s.setFb fb).stack = s.stack := rfl
@[simp] theorem State.setFb_dt (fb : FrameBuffer) : (s.setFb fb).dt = s.dt := rfl
@[simp] theorem State.setFb_st (fb : FrameBuffer) : (s.setFb fb).st = s.st := rfl
@[simp] theorem State.setFb_mem (fb : FrameBuffer) : (s.setFb fb).mem = s.mem := rfl
@[simp] theorem State.setFb_key (fb : FrameBuffer) : (s.setFb fb).key = s.key := rfl
@[simp] theorem State.setFb_fb (fb : FrameBuffer) : (s.setFb fb).fb = fb := rfl
@[simp] theorem State.setFb_execState (fb : FrameBuffer) : (s.setFb fb).execState = s.execState := rfl
@[simp] theorem State.setFb_timerRef (fb : FrameBuffer) : (s.setFb fb).timerRef = s.timerRef := rfl
@[simp] theorem State.setFb_draws (fb : FrameBuffer) : (s.setFb fb).draws = s.draws := rfl

/-! ### writeWithFlag -/

@[simp] theorem State.writeWithFlag_v (x : RegIx) (b : Byte) (c : Bool) : (s.writeWithFlag x b c).v = (s.v.set x b).set vf (flagByte c) := rfl
@[simp] theorem State.writeWithFlag_i (x : RegIx) (b : Byte) (c : Bool) : (s.writeWithFlag x b c).i = s.i := rfl
@[simp] theorem State.writeWithFlag_pc (x : RegIx) (b : Byte) (c : Bool) : (s.writeWithFlag x b c).pc = BitVec.ofNat 16 (s.pc.toNat + 2) := rfl
@[simp] theorem State.writeWithFlag_sp (x : RegIx) (b : Byte) (c : Bool) : (s.writeWithFlag x b c).sp = s.sp := rfl
@[simp] theorem State.writeWithFlag_stack (x : RegIx) (b : Byte) (c : Bool) : (s.writeWithFlag x b c).stack = s.stack := rfl
@[simp] theorem State.writeWithFlag_dt (x : RegIx) (b : Byte) (c : Bool) : (s.writeWithFlag x b c).dt = s.dt := rfl
@[simp] theorem State.writeWithFlag_st (x : RegIx) (b : Byte) (c : Bool) : (s.writeWithFlag x b c).st = s.st := rfl
@[simp] theorem State.writeWithFlag_mem (x : RegIx) (b : Byte) (c : Bool) : (s.writeWithFlag x b c).mem = s.mem := rfl
@[simp] theorem State.writeWithFlag_key (x : RegIx) (b : Byte) (c : Bool) : (s.writeWithFlag x b c).key = s.key := rfl
@[simp] theorem State.writeWithFlag_fb (x : RegIx) (b : Byte) (c : Bool) : (s.writeWithFlag x b c).fb = s.fb := rfl
@[simp] theorem State.writeWithFlag_execState (x : RegIx) (b : Byte) (c : Bool) : (s.writeWithFlag x b c).execState = s.execState := rfl
@[simp] theorem State.writeWithFlag_timerRef (x : RegIx) (b : Byte) (c : Bool) : (s.writeWithFlag x b c).timerRef = s.timerRef := rfl
@[simp] theorem State.writeWithFlag_draws (x : RegIx) (b : Byte) (c : Bool) : (s.writeWithFlag x b c).draws = s.draws := rfl

/-! ### The register read -/

theorem State.reg_eq (x : RegIx) : s.reg x = s.v[x] := rfl

@[simp] theorem State.reg_setReg (x y : RegIx) (b : Byte) : (s.setReg x b).reg y = if x = y then b else s.reg y := by
  simp [State.reg, Vector.getElem_set, Fin.ext_iff]

@[simp] theorem State.reg_loadRegs (x y : RegIx) (b : Nat → Byte) :
    (s.loadRegs x b).reg y = if y ≤ x then b y.val else s.reg y := by
  simp [State.reg]

@[simp] theorem State.reg_writeWithFlag (x y : RegIx) (b : Byte) (c : Bool) :
    (s.writeWithFlag x b c).reg y = if vf = y then flagByte c else if x = y then b else s.reg y := by
  show ((s.setReg x b).setReg vf (flagByte c)).reg y = _
  simp
@[simp] theorem State.reg_setI (a : Nat) (y : RegIx) : (s.setI a).reg y = s.reg y := rfl
@[simp] theorem State.reg_setPc (a : Nat) (y : RegIx) : (s.setPc a).reg y = s.reg y := rfl
@[simp] theorem State.reg_advance (y : RegIx) : (s.advance).reg y = s.reg y := rfl
@[simp] theorem State.reg_skipIf (c : Bool) (y : RegIx) : (s.skipIf c).reg y = s.reg y := rfl
@[simp] theorem State.reg_setDt (b : Byte) (y : RegIx) : (s.setDt b).reg y = s.reg y := rfl
@[simp] theorem State.reg_setSt (b : Byte) (y : RegIx) : (s.setSt b).reg y = s.reg y := rfl
@[simp] theorem State.reg_store (a : Addr) (bs : List Byte) (y : RegIx) : (s.store a bs).reg y = s.reg y := rfl
@[simp] theorem State.reg_countDraw (y : RegIx) : (s.countDraw).reg y = s.reg y := rfl
@[simp] theorem State.reg_awaitKey (x : RegIx) (y : RegIx) : (s.awaitKey x).reg y = s.reg y := rfl
@[simp] theorem State.reg_push (h : s.sp.toNat < 16) (a : Nat) (y : RegIx) : (s.push h a).reg y = s.reg y := rfl
@[simp] theorem State.reg_popSp (y : RegIx) : (s.popSp).reg y = s.reg y := rfl
@[simp] theorem State.reg_raiseHalt (c : HaltCode) (y : RegIx) : (s.raiseHalt c).reg y = s.reg y := rfl
@[simp] theorem State.reg_setFb (fb : FrameBuffer) (y : RegIx) : (s.setFb fb).reg y = s.reg y := rfl

/-! ### Frames -/

/-- A frame holds when each part outside the list is the same. -/
theorem frameExcept_refl (parts : List Part) : FrameExcept parts s s := by
  intro p _; cases p <;> simp [Part.same]

/-- Frames compose. -/
theorem FrameExcept.trans {parts : List Part} {s t u : State} (h₁ : FrameExcept parts s t) (h₂ : FrameExcept parts t u) :
    FrameExcept parts s u := by
  intro p hp
  have a := h₁ p hp
  have b := h₂ p hp
  cases p <;> simp_all [Part.same]

/-- A longer list of parts frames less. -/
theorem FrameExcept.mono {ps qs : List Part} {s t : State} (h : FrameExcept ps s t) (hs : ps ⊆ qs) :
    FrameExcept qs s t := fun p hp => h p fun hp' => hp (hs hp')

end Sys2Proof.Machine
end

