-- ==== Sys2Proof/Laws/HostOps.lean ====
section
/-! SUPPORT. What each host operation can do, said once, and what a performed operation answers (spec 60_exceptions.md R308
to R318). -/

namespace Sys2Proof.Machine

/-! ### The operations -/

/-- LOAD: the image is stored at 0x200, or it is too long and nothing changes (R311). -/
theorem hostLoad_cases (b : List Byte) (s : State) :
    (b.length ≤ progMax ∧ hostLoad b s = s.store (BitVec.ofNat 12 progBase) b ∧ loadReply b = .loadOk) ∨
      (progMax < b.length ∧ hostLoad b s = s ∧ loadReply b = .programTooLarge) := by
  by_cases h : b.length ≤ progMax
  · exact .inl ⟨h, if_pos h, if_pos h⟩
  · exact .inr ⟨by omega, if_neg h, if_neg h⟩

/-- A poll in which no period has elapsed changes nothing (R312). -/
@[simp] theorem hostTimerPoll_false (now : Nat) (s : State) : hostTimerPoll false now s = s := rfl

/-- A poll in which a period has elapsed (R312). -/
@[simp] theorem hostTimerPoll_true (now : Nat) (s : State) :
    hostTimerPoll true now s = { s with dt := countDown s.dt, st := countDown s.st, timerRef := now } := rfl

/-- A timer counts down by one and stops at 0 (R26, R27). -/
@[simp] theorem countDown_toNat (b : Byte) : (countDown b).toNat = b.toNat - 1 := by
  simp only [countDown, BitVec.toNat_ofNat]; omega

/-- KEY_RELEASE: in AWAITING_KEY(x) it resolves the latch, elsewhere nothing changes (R284, D12). -/
theorem hostKeyRelease_cases (k : KeyIx) (s : State) :
    (∃ x, s.execState = .awaitingKey x ∧
      hostKeyRelease k s = { (s.setReg x (BitVec.ofNat 8 k.val)).advance with execState := .running }) ∨
      ((∀ x, s.execState ≠ .awaitingKey x) ∧ hostKeyRelease k s = s) := by
  unfold hostKeyRelease
  split
  · exact .inl ⟨_, ‹_›, rfl⟩
  · rename_i e; exact .inr ⟨by simp [e], rfl⟩
  · rename_i e; exact .inr ⟨by simp [e], rfl⟩

/-- SET_KEYS: key i is pressed exactly when bit i is 1 (R314). -/
@[simp] theorem hostSetKeys_keyPressed (k : BitVec 16) (s : State) (i : KeyIx) :
    (hostSetKeys k s).keyPressed i = k.getLsbD i.val := by
  simp [hostSetKeys, State.keyPressed]

/-! ### A performed operation -/

/-- Everything an operation that answers a next state can do, with its result (R308). -/
theorem perform_cases {p : Params} {op : Op} {s t : State} {r : Reply} (h : perform p op s = .next (t, r)) :
    (∃ now, op = .reset now ∧ t = hostReset p now s ∧ r = .none) ∨
      (∃ b, op = .load b ∧ t = hostLoad b s ∧ r = loadReply b) ∨
      (op = .step ∧ step s = .next t ∧ r = t.stepReply) ∨
      (∃ e now, op = .timerPoll e now ∧ t = hostTimerPoll e now s ∧ r = .none) ∨
      (∃ k, op = .setKeys k ∧ t = hostSetKeys k s ∧ r = .none) ∨
      (∃ k, op = .keyRelease k ∧ t = hostKeyRelease k s ∧ r = .none) := by
  cases op <;> simp only [perform] at h
  case step =>
    split at h
    · rename_i e; cases h; exact .inr (.inr (.inl ⟨rfl, e, rfl⟩))
    · cases h
    · cases h
  all_goals cases h; simp

/-- An operation answers a next state whenever STEP does: no other operation stops (R308). -/
theorem perform_next (p : Params) (op : Op) (s : State) (h : ∃ t, step s = .next t) :
    ∃ t r, perform p op s = .next (t, r) := by
  cases op
  case step => obtain ⟨t, e⟩ := h; exact ⟨t, t.stepReply, by simp [perform, e]⟩
  all_goals exact ⟨_, _, rfl⟩

/-- A sequence of one operation and then the rest, by a host without duties. -/
theorem runAnyOps_cons {p : Params} {op : Op} {ops : List Op} {s t : State} {r : Reply}
    (h : perform p op s = .next (t, r)) : runAnyOps p (op :: ops) s = runAnyOps p ops t := by
  simp [runAnyOps, h]

/-! ### Moves of the host of R319 -/

@[simp] theorem Session.allows_step (c : Session) : c.allows .step = (!c.loadFailed && !c.engine.isFailed) := rfl

/-- Only a STEP can be no move. -/
theorem Session.allows_of_ne_step (c : Session) {op : Op} (h : op ≠ .step) : c.allows op = true := by
  cases op <;> first | rfl | exact absurd rfl h

/-- A refused image fails the run until RESET (R311, R319). -/
theorem Session.loadFailedAfter_of_failed {c : Session} {op : Op} (h : c.loadFailed = true)
    (hr : ∀ now, op ≠ .reset now) : c.loadFailedAfter op = true := by
  cases op <;> simp_all [Session.loadFailedAfter]

/-- Everything a move can be: no move, for a STEP that R319 forbids, or the operation performed. -/
theorem hostMove_cases (p : Params) (op : Op) (c : Session) :
    (c.allows op = false ∧ hostMove p op c = none) ∨
      (c.allows op = true ∧
        ((∃ t r, perform p op c.engine = .next (t, r) ∧
            hostMove p op c = some (.next (⟨t, c.loadFailedAfter op⟩, r))) ∨
          (∃ f, perform p op c.engine = .fault f ∧ hostMove p op c = some (.fault f)) ∨
          (∃ f, perform p op c.engine = .refused f ∧ hostMove p op c = some (.refused f)))) := by
  by_cases h : c.allows op = true
  · refine .inr ⟨h, ?_⟩
    unfold hostMove
    rw [if_pos h]
    cases e : perform p op c.engine with
    | next q => exact .inl ⟨q.1, q.2, rfl, rfl⟩
    | fault f => exact .inr (.inl ⟨f, rfl, rfl⟩)
    | refused f => exact .inr (.inr ⟨f, rfl, rfl⟩)
  · exact .inl ⟨by simpa using h, if_neg h⟩

/-- A run of a host of R319 is a sequence of operations that the engine takes in the same way. -/
theorem runAnyOps_of_runOps {p : Params} {ops : List Op} {c d : Session} (h : runOps p ops c = some (.next d)) :
    runAnyOps p ops c.engine = .next d.engine := by
  induction ops generalizing c with
  | nil => simp only [runOps, Option.some.injEq, Host.Outcome.next.injEq] at h; subst h; rfl
  | cons op rest ih =>
    rcases hostMove_cases p op c with ⟨-, e⟩ | ⟨-, ⟨t, r, e', e⟩ | ⟨f, -, e⟩ | ⟨f, -, e⟩⟩ <;>
      simp only [runOps, e] at h
    · cases h
    · rw [runAnyOps_cons e']; exact ih h
    · cases h
    · cases h

end Sys2Proof.Machine
end

