-- ==== Sys2Proof/Laws/PerInstr.lean ====
section
/-! SUPPORT. Statements made of every instruction, one lemma a constructor. The family RowMatch: the encoding of an
instruction matches the row of the opcode map that bears its name (spec 30_encoding.md R97, R101). -/

namespace Sys2Proof.Laws.RowMatch

/-- The instruction's word matches the row of R97 with the instruction's name. -/
def Statement (i : Instr) : Prop := ∃ r ∈ opcodeMap, r.mnemonic = i.mnemonic ∧ r.matchesWord (encode i) = true

/-- A word matches a row of mask 0xF000 when its family is the row's. -/
theorem matches_family (name : String) (op : BitVec 4) (w : Word) (h : fieldOp w = op) :
    (OpRow.mk name (formatA op 0) 0xF000).matchesWord w = true := by
  simp only [OpRow.matchesWord, beq_iff_eq, mask_family, h]

/-- A word matches a row of mask 0xF00F when its family and `n` are the row's. -/
theorem matches_family_n (name : String) (op n : BitVec 4) (w : Word) (h : fieldOp w = op) (hn : fieldN w = n) :
    (OpRow.mk name (formatXYN op 0 0 n) 0xF00F).matchesWord w = true := by
  simp only [OpRow.matchesWord, beq_iff_eq, mask_family_n, h, hn]

/-- A word matches a row of mask 0xF0FF when its family and `nn` are the row's. -/
theorem matches_family_nn (name : String) (op : BitVec 4) (nn : Byte) (w : Word) (h : fieldOp w = op)
    (hn : fieldNN w = nn) : (OpRow.mk name (formatXNN op 0 nn) 0xF0FF).matchesWord w = true := by
  simp only [OpRow.matchesWord, beq_iff_eq, mask_family_nn, h, hn]

theorem cls : Statement .cls :=
  ⟨⟨"CLS", 0x00E0, 0xFFFF⟩, by decide, rfl, by decide⟩

theorem ret : Statement .ret :=
  ⟨⟨"RET", 0x00EE, 0xFFFF⟩, by decide, rfl, by decide⟩

theorem jp (nnn : Addr) : Statement (.jp nnn) :=
  ⟨⟨"JP", 0x1000, 0xF000⟩, by decide, rfl, matches_family _ 0x1 _ (fieldOp_formatA _ _)⟩

theorem call (nnn : Addr) : Statement (.call nnn) :=
  ⟨⟨"CALL", 0x2000, 0xF000⟩, by decide, rfl, matches_family _ 0x2 _ (fieldOp_formatA _ _)⟩

theorem seImm (x : RegIx) (nn : Byte) : Statement (.seImm x nn) :=
  ⟨⟨"SE_imm", 0x3000, 0xF000⟩, by decide, rfl, matches_family _ 0x3 _ (fieldOp_formatXNN _ _ _)⟩

theorem sneImm (x : RegIx) (nn : Byte) : Statement (.sneImm x nn) :=
  ⟨⟨"SNE_imm", 0x4000, 0xF000⟩, by decide, rfl, matches_family _ 0x4 _ (fieldOp_formatXNN _ _ _)⟩

theorem seReg (x : RegIx) (y : RegIx) : Statement (.seReg x y) :=
  ⟨⟨"SE_reg", 0x5000, 0xF00F⟩, by decide, rfl, matches_family_n _ 0x5 0x0 _ (fieldOp_formatXYN _ _ _ _) (fieldN_formatXYN _ _ _ _)⟩

theorem ldImm (x : RegIx) (nn : Byte) : Statement (.ldImm x nn) :=
  ⟨⟨"LD_imm", 0x6000, 0xF000⟩, by decide, rfl, matches_family _ 0x6 _ (fieldOp_formatXNN _ _ _)⟩

theorem addImm (x : RegIx) (nn : Byte) : Statement (.addImm x nn) :=
  ⟨⟨"ADD_imm", 0x7000, 0xF000⟩, by decide, rfl, matches_family _ 0x7 _ (fieldOp_formatXNN _ _ _)⟩

theorem ldReg (x : RegIx) (y : RegIx) : Statement (.ldReg x y) :=
  ⟨⟨"LD_reg", 0x8000, 0xF00F⟩, by decide, rfl, matches_family_n _ 0x8 0x0 _ (fieldOp_formatXYN _ _ _ _) (fieldN_formatXYN _ _ _ _)⟩

theorem or (x : RegIx) (y : RegIx) : Statement (.or x y) :=
  ⟨⟨"OR", 0x8001, 0xF00F⟩, by decide, rfl, matches_family_n _ 0x8 0x1 _ (fieldOp_formatXYN _ _ _ _) (fieldN_formatXYN _ _ _ _)⟩

theorem and (x : RegIx) (y : RegIx) : Statement (.and x y) :=
  ⟨⟨"AND", 0x8002, 0xF00F⟩, by decide, rfl, matches_family_n _ 0x8 0x2 _ (fieldOp_formatXYN _ _ _ _) (fieldN_formatXYN _ _ _ _)⟩

theorem xor (x : RegIx) (y : RegIx) : Statement (.xor x y) :=
  ⟨⟨"XOR", 0x8003, 0xF00F⟩, by decide, rfl, matches_family_n _ 0x8 0x3 _ (fieldOp_formatXYN _ _ _ _) (fieldN_formatXYN _ _ _ _)⟩

theorem addReg (x : RegIx) (y : RegIx) : Statement (.addReg x y) :=
  ⟨⟨"ADD_reg", 0x8004, 0xF00F⟩, by decide, rfl, matches_family_n _ 0x8 0x4 _ (fieldOp_formatXYN _ _ _ _) (fieldN_formatXYN _ _ _ _)⟩

theorem sub (x : RegIx) (y : RegIx) : Statement (.sub x y) :=
  ⟨⟨"SUB", 0x8005, 0xF00F⟩, by decide, rfl, matches_family_n _ 0x8 0x5 _ (fieldOp_formatXYN _ _ _ _) (fieldN_formatXYN _ _ _ _)⟩

theorem shr (x : RegIx) (y : RegIx) : Statement (.shr x y) :=
  ⟨⟨"SHR", 0x8006, 0xF00F⟩, by decide, rfl, matches_family_n _ 0x8 0x6 _ (fieldOp_formatXYN _ _ _ _) (fieldN_formatXYN _ _ _ _)⟩

theorem subn (x : RegIx) (y : RegIx) : Statement (.subn x y) :=
  ⟨⟨"SUBN", 0x8007, 0xF00F⟩, by decide, rfl, matches_family_n _ 0x8 0x7 _ (fieldOp_formatXYN _ _ _ _) (fieldN_formatXYN _ _ _ _)⟩

theorem shl (x : RegIx) (y : RegIx) : Statement (.shl x y) :=
  ⟨⟨"SHL", 0x800E, 0xF00F⟩, by decide, rfl, matches_family_n _ 0x8 0xe _ (fieldOp_formatXYN _ _ _ _) (fieldN_formatXYN _ _ _ _)⟩

theorem sneReg (x : RegIx) (y : RegIx) : Statement (.sneReg x y) :=
  ⟨⟨"SNE_reg", 0x9000, 0xF00F⟩, by decide, rfl, matches_family_n _ 0x9 0x0 _ (fieldOp_formatXYN _ _ _ _) (fieldN_formatXYN _ _ _ _)⟩

theorem ldI (nnn : Addr) : Statement (.ldI nnn) :=
  ⟨⟨"LD_I", 0xA000, 0xF000⟩, by decide, rfl, matches_family _ 0xa _ (fieldOp_formatA _ _)⟩

theorem jpV0 (nnn : Addr) : Statement (.jpV0 nnn) :=
  ⟨⟨"JP_V0", 0xB000, 0xF000⟩, by decide, rfl, matches_family _ 0xb _ (fieldOp_formatA _ _)⟩

theorem rnd (x : RegIx) (nn : Byte) : Statement (.rnd x nn) :=
  ⟨⟨"RND", 0xC000, 0xF000⟩, by decide, rfl, matches_family _ 0xc _ (fieldOp_formatXNN _ _ _)⟩

theorem drw (x : RegIx) (y : RegIx) (n : BitVec 4) : Statement (.drw x y n) :=
  ⟨⟨"DRW", 0xD000, 0xF000⟩, by decide, rfl, matches_family _ 0xd _ (fieldOp_formatXYN _ _ _ _)⟩

theorem skp (x : RegIx) : Statement (.skp x) :=
  ⟨⟨"SKP", 0xE09E, 0xF0FF⟩, by decide, rfl, matches_family_nn _ 0xe 0x9e _ (fieldOp_formatXNN _ _ _) (fieldNN_formatXNN _ _ _)⟩

theorem sknp (x : RegIx) : Statement (.sknp x) :=
  ⟨⟨"SKNP", 0xE0A1, 0xF0FF⟩, by decide, rfl, matches_family_nn _ 0xe 0xa1 _ (fieldOp_formatXNN _ _ _) (fieldNN_formatXNN _ _ _)⟩

theorem ldVxDt (x : RegIx) : Statement (.ldVxDt x) :=
  ⟨⟨"LD_Vx_DT", 0xF007, 0xF0FF⟩, by decide, rfl, matches_family_nn _ 0xf 0x7 _ (fieldOp_formatXNN _ _ _) (fieldNN_formatXNN _ _ _)⟩

theorem ldVxK (x : RegIx) : Statement (.ldVxK x) :=
  ⟨⟨"LD_Vx_K", 0xF00A, 0xF0FF⟩, by decide, rfl, matches_family_nn _ 0xf 0xa _ (fieldOp_formatXNN _ _ _) (fieldNN_formatXNN _ _ _)⟩

theorem ldDtVx (x : RegIx) : Statement (.ldDtVx x) :=
  ⟨⟨"LD_DT_Vx", 0xF015, 0xF0FF⟩, by decide, rfl, matches_family_nn _ 0xf 0x15 _ (fieldOp_formatXNN _ _ _) (fieldNN_formatXNN _ _ _)⟩

theorem ldStVx (x : RegIx) : Statement (.ldStVx x) :=
  ⟨⟨"LD_ST_Vx", 0xF018, 0xF0FF⟩, by decide, rfl, matches_family_nn _ 0xf 0x18 _ (fieldOp_formatXNN _ _ _) (fieldNN_formatXNN _ _ _)⟩

theorem addIVx (x : RegIx) : Statement (.addIVx x) :=
  ⟨⟨"ADD_I_Vx", 0xF01E, 0xF0FF⟩, by decide, rfl, matches_family_nn _ 0xf 0x1e _ (fieldOp_formatXNN _ _ _) (fieldNN_formatXNN _ _ _)⟩

theorem ldFVx (x : RegIx) : Statement (.ldFVx x) :=
  ⟨⟨"LD_F_Vx", 0xF029, 0xF0FF⟩, by decide, rfl, matches_family_nn _ 0xf 0x29 _ (fieldOp_formatXNN _ _ _) (fieldNN_formatXNN _ _ _)⟩

theorem ldBVx (x : RegIx) : Statement (.ldBVx x) :=
  ⟨⟨"LD_B_Vx", 0xF033, 0xF0FF⟩, by decide, rfl, matches_family_nn _ 0xf 0x33 _ (fieldOp_formatXNN _ _ _) (fieldNN_formatXNN _ _ _)⟩

theorem ldMIVx (x : RegIx) : Statement (.ldMIVx x) :=
  ⟨⟨"LD_mI_Vx", 0xF055, 0xF0FF⟩, by decide, rfl, matches_family_nn _ 0xf 0x55 _ (fieldOp_formatXNN _ _ _) (fieldNN_formatXNN _ _ _)⟩

theorem ldVxMI (x : RegIx) : Statement (.ldVxMI x) :=
  ⟨⟨"LD_Vx_mI", 0xF065, 0xF0FF⟩, by decide, rfl, matches_family_nn _ 0xf 0x65 _ (fieldOp_formatXNN _ _ _) (fieldNN_formatXNN _ _ _)⟩

end Sys2Proof.Laws.RowMatch
end

