-- ==== Sys2Proof/Laws/Sprite.lean ====
section
/-! SUPPORT. The laws of the framebuffer and of the sprite drawer: what a drawn bit, a drawn row and a drawn sprite do to
each pixel and to the collision. -/

namespace Sys2Proof.Machine

theorem FrameBuffer.pixel_flip (fb : FrameBuffer) (px qx : Fin 64) (py qy : Fin 32) :
    (fb.flip px py).pixel qx qy = if px = qx ∧ py = qy then !fb.pixel qx qy else fb.pixel qx qy := by
  simp only [FrameBuffer.flip, FrameBuffer.pixel, Fin.getElem_fin, Vector.getElem_set, Fin.ext_iff]
  by_cases hx : px.val = qx.val
  · by_cases hy : py.val = qy.val <;> simp [hx, hy]
  · simp [hx]

@[simp] theorem FrameBuffer.pixel_clear (px : Fin 64) (py : Fin 32) : FrameBuffer.clear.pixel px py = false := by
  simp [FrameBuffer.clear, FrameBuffer.pixel]

/-- Two framebuffers with the same pixels are the same. -/
theorem FrameBuffer.ext_pixel {f g : FrameBuffer} (h : ∀ px py, f.pixel px py = g.pixel px py) : f = g := by
  apply Vector.ext
  intro i hi
  apply Vector.ext
  intro j hj
  exact h ⟨i, hi⟩ ⟨j, hj⟩

/-- The pixels after one sprite bit: flipped exactly at an on-screen 1 bit (R251, R253). -/
theorem drawBit_pixel (x y : Nat) (bit : Bool) (d : Drawing) (qx : Fin 64) (qy : Fin 32) :
    (drawBit x y bit d).fb.pixel qx qy = (d.fb.pixel qx qy ^^ (bit && (x = qx.val && y = qy.val))) := by
  unfold drawBit
  split
  · rename_i h
    rw [FrameBuffer.pixel_flip]
    by_cases e : x = qx.val ∧ y = qy.val
    · simp [e, h.1]
    · simp only [Fin.ext_iff, e, if_false]; simp only [not_and] at e; cases bit
      · simp
      · simp; grind
  · rename_i h
    have : (bit && (decide (x = qx.val) && decide (y = qy.val))) = false := by
      rw [Bool.eq_false_iff]; intro e; simp at e; exact h ⟨e.1, by omega, by omega⟩
    rw [this]; simp

/-- The collision after one sprite bit (R254). -/
theorem drawBit_hit (x y : Nat) (bit : Bool) (d : Drawing) :
    (drawBit x y bit d).hit = true ↔
      d.hit = true ∨ ∃ (qx : Fin 64) (qy : Fin 32), bit = true ∧ x = qx.val ∧ y = qy.val ∧ d.fb.pixel qx qy = true := by
  unfold drawBit
  split
  · rename_i h
    simp only [Bool.or_eq_true]
    constructor
    · rintro (h' | h')
      · exact .inl h'
      · exact .inr ⟨_, _, h.1, rfl, rfl, h'⟩
    · rintro (h' | ⟨qx, qy, _, rfl, rfl, h'⟩)
      · exact .inl h'
      · exact .inr h'
  · rename_i h
    constructor
    · exact .inl
    · rintro (h' | ⟨qx, qy, hb, rfl, rfl, _⟩)
      · exact h'
      · exact absurd ⟨hb, qx.isLt, qy.isLt⟩ h

/-- Whether a row drawn from column `x0` has a 1 bit among its columns `cs` at column `px`. -/
def rowCovers (x0 : Nat) (row : Byte) (cs : List Nat) (px : Nat) : Bool :=
  cs.any fun c => x0 + c = px && spriteBit row c

theorem drawColumns_pixel (x0 y : Nat) (row : Byte) (cs : List Nat) : ∀ (d : Drawing), cs.Nodup →
    ∀ (qx : Fin 64) (qy : Fin 32),
    (cs.foldl (fun d c => drawBit (x0 + c) y (spriteBit row c) d) d).fb.pixel qx qy =
      (d.fb.pixel qx qy ^^ (rowCovers x0 row cs qx.val && y = qy.val)) := by
  induction cs with
  | nil => simp [rowCovers]
  | cons c rest ih =>
    intro d hn qx qy
    rw [List.nodup_cons] at hn
    rw [List.foldl_cons, ih _ hn.2, drawBit_pixel]
    simp only [rowCovers, List.any_cons]
    by_cases hc : x0 + c = qx.val
    · have : (rest.any fun c => decide (x0 + c = qx.val) && spriteBit row c) = false := by
        rw [List.any_eq_false]
        intro c' hc' e
        simp at e
        exact hn.1 (by rwa [show c = c' by omega])
      simp [hc, this]
    · simp [hc]

theorem drawColumns_hit (x0 y : Nat) (row : Byte) (cs : List Nat) : ∀ (d : Drawing), cs.Nodup →
    ((cs.foldl (fun d c => drawBit (x0 + c) y (spriteBit row c) d) d).hit = true ↔
      d.hit = true ∨ ∃ (qx : Fin 64) (qy : Fin 32),
        rowCovers x0 row cs qx.val = true ∧ y = qy.val ∧ d.fb.pixel qx qy = true) := by
  induction cs with
  | nil => simp [rowCovers]
  | cons c rest ih =>
    intro d hn
    rw [List.nodup_cons] at hn
    rw [List.foldl_cons, ih _ hn.2, drawBit_hit]
    simp only [drawBit_pixel, rowCovers, List.any_cons, Bool.or_eq_true]
    constructor
    · rintro ((h | ⟨qx, qy, hb, hx, hy, hp⟩) | ⟨qx, qy, hr, hy, hp⟩)
      · exact .inl h
      · exact .inr ⟨qx, qy, .inl (by simp [hb, hx]), hy, hp⟩
      · refine .inr ⟨qx, qy, .inr hr, hy, ?_⟩
        rw [List.any_eq_true] at hr
        obtain ⟨c', hc', e⟩ := hr
        simp at e
        have : x0 + c ≠ qx.val := fun e' => hn.1 (by rwa [show c = c' by omega])
        simpa [this] using hp
    · rintro (h | ⟨qx, qy, hr | hr, hy, hp⟩)
      · exact .inl (.inl h)
      · simp at hr
        exact .inl (.inr ⟨qx, qy, hr.2, hr.1, hy, hp⟩)
      · refine .inr ⟨qx, qy, hr, hy, ?_⟩
        rw [List.any_eq_true] at hr
        obtain ⟨c', hc', e⟩ := hr
        simp at e
        have : x0 + c ≠ qx.val := fun e' => hn.1 (by rwa [show c = c' by omega])
        simpa [this] using hp

/-- The eight columns of a row cover a column when it lies in them and its bit is 1. -/
theorem rowCovers_eight (x0 : Nat) (row : Byte) (px : Nat) :
    rowCovers x0 row (List.range 8) px = (decide (x0 ≤ px ∧ px < x0 + 8) && spriteBit row (px - x0)) := by
  rw [Bool.eq_iff_iff]
  simp only [rowCovers, List.any_eq_true, List.mem_range, Bool.and_eq_true, decide_eq_true_eq]
  constructor
  · rintro ⟨c, hc, rfl, hb⟩
    exact ⟨⟨by omega, by omega⟩, by rwa [Nat.add_sub_cancel_left]⟩
  · rintro ⟨h, hb⟩
    exact ⟨px - x0, by omega, by omega, hb⟩

/-- Whether a sprite with the rows `rows` drawn from (x0, y0) has a 1 bit at (px, py) (R251, R252). -/
def spriteCovers (x0 y0 : Nat) (rows : List Byte) (px py : Nat) : Bool :=
  if h : x0 ≤ px ∧ px < x0 + 8 ∧ y0 ≤ py ∧ py < y0 + rows.length then
    spriteBit (rows[py - y0]'(by omega)) (px - x0)
  else false

theorem spriteCovers_cons (x0 y0 : Nat) (row : Byte) (rest : List Byte) (px py : Nat) :
    spriteCovers x0 y0 (row :: rest) px py =
      ((rowCovers x0 row (List.range 8) px && y0 = py) || spriteCovers x0 (y0 + 1) rest px py) := by
  rw [rowCovers_eight]
  unfold spriteCovers
  by_cases hx : x0 ≤ px ∧ px < x0 + 8
  · by_cases hy : y0 = py
    · subst hy
      simp [hx]
    · by_cases hr : y0 + 1 ≤ py ∧ py < y0 + 1 + rest.length
      · rw [dif_pos ⟨hx.1, hx.2, by omega, by simp; omega⟩, dif_pos ⟨hx.1, hx.2, hr⟩]
        have e : py - y0 = (py - (y0 + 1)) + 1 := by omega
        simp [hy, e]
      · rw [dif_neg (by simp; omega), dif_neg (by omega)]
        simp [hy]
  · rw [dif_neg (by omega), dif_neg (by omega)]
    simp [hx]

theorem spriteCovers_nil (x0 y0 : Nat) (px py : Nat) : spriteCovers x0 y0 [] px py = false := by
  unfold spriteCovers; rw [dif_neg (by simp only [List.length_nil]; omega)]

theorem spriteCovers_above (x0 y0 : Nat) (rows : List Byte) (px py : Nat) (h : py < y0) :
    spriteCovers x0 y0 rows px py = false := by
  unfold spriteCovers; rw [dif_neg (by omega)]

/-- The pixels after a sprite: each on-screen pixel under a 1 bit is flipped, and no other (R251, R253, R254). -/
theorem drawRows_pixel (x0 : Nat) (rows : List Byte) : ∀ (y0 : Nat) (d : Drawing) (qx : Fin 64) (qy : Fin 32),
    (drawRows x0 y0 rows d).fb.pixel qx qy = (d.fb.pixel qx qy ^^ spriteCovers x0 y0 rows qx.val qy.val) := by
  induction rows with
  | nil => intro y0 d qx qy; simp [drawRows, spriteCovers_nil]
  | cons row rest ih =>
    intro y0 d qx qy
    rw [drawRows, ih, drawRow, drawColumns_pixel _ _ _ _ _ List.nodup_range, spriteCovers_cons]
    by_cases hy : y0 = qy.val
    · rw [spriteCovers_above _ _ _ _ _ (by omega)]; simp
    · simp [hy]

/-- The collision after a sprite: some on-screen pixel under a 1 bit was set before the draw (R254). -/
theorem drawRows_hit (x0 : Nat) (rows : List Byte) : ∀ (y0 : Nat) (d : Drawing),
    ((drawRows x0 y0 rows d).hit = true ↔ d.hit = true ∨ ∃ (qx : Fin 64) (qy : Fin 32),
      spriteCovers x0 y0 rows qx.val qy.val = true ∧ d.fb.pixel qx qy = true) := by
  induction rows with
  | nil =>
    intro y0 d
    simp [drawRows, spriteCovers_nil]
  | cons row rest ih =>
    intro y0 d
    rw [drawRows, ih, drawRow, drawColumns_hit _ _ _ _ _ List.nodup_range]
    simp only [drawColumns_pixel _ _ _ _ _ List.nodup_range, spriteCovers_cons, Bool.or_eq_true, Bool.and_eq_true,
      decide_eq_true_eq]
    constructor
    · rintro ((h | ⟨qx, qy, hr, hy, hp⟩) | ⟨qx, qy, hs, hp⟩)
      · exact .inl h
      · exact .inr ⟨qx, qy, .inl ⟨hr, hy⟩, hp⟩
      · refine .inr ⟨qx, qy, .inr hs, ?_⟩
        by_cases hy : y0 = qy.val
        · rw [spriteCovers_above _ _ _ _ _ (by omega)] at hs; cases hs
        · simpa [hy] using hp
    · rintro (h | ⟨qx, qy, ⟨hr, hy⟩ | hs, hp⟩)
      · exact .inl (.inl h)
      · exact .inl (.inr ⟨qx, qy, hr, hy, hp⟩)
      · refine .inr ⟨qx, qy, hs, ?_⟩
        by_cases hy : y0 = qy.val
        · rw [spriteCovers_above _ _ _ _ _ (by omega)] at hs; cases hs
        · simpa [hy] using hp

end Sys2Proof.Machine
end

