-- ==== Sys2Proof/Laws/Step.lean ====
section
/-! SUPPORT. What each shared operation of a step can do, said once: fetch, the key skips, the stack instructions, and STEP
itself. -/

namespace Sys2Proof.Machine

/-! ### Fetch -/

/-- A fetch gives an instruction exactly when PC is in range and the word there decodes to it (R120). -/
theorem fetch_instr_iff (s : State) (i : Instr) :
    s.fetch = .instr i ↔ s.pc.toNat ≤ lastFetch ∧ decode s.fetchWord = .instr i := by
  unfold State.fetch
  split
  · rename_i h; simp; omega
  · rename_i h
    have h' : s.pc.toNat ≤ lastFetch := by omega
    split <;> simp_all

/-- A fetch fails with FETCH_OUT_OF_RANGE when PC is out of range, else with INVALID_OPCODE when the word is no instruction
(R123, R124, R303). -/
theorem fetch_error_iff (s : State) (c : HaltCode) :
    s.fetch = .error c ↔ (lastFetch < s.pc.toNat ∧ c = .fetchOutOfRange) ∨
      (s.pc.toNat ≤ lastFetch ∧ (∃ w, decode s.fetchWord = .invalid w) ∧ c = .invalidOpcode) := by
  unfold State.fetch
  split
  · rename_i h
    have h' : ¬ s.pc.toNat ≤ lastFetch := by omega
    simp [h, h', eq_comm]
  · rename_i h
    have h' : s.pc.toNat ≤ lastFetch := by omega
    split
    · simp_all
    · rename_i w e; simp [e, h, h', eq_comm]
    · rename_i e; exact absurd e (decode_ne_truncated _)

/-- A fetch reads only PC and memory (R121). -/
theorem fetchWord_congr {s t : State} (hp : t.pc = s.pc) (hm : ∀ a, t.mem.read a = s.mem.read a) :
    t.fetchWord = s.fetchWord := by
  simp [State.fetchWord, hp, hm]

/-! ### The operations that check before they write -/

/-- The key skips: a halt when Vx is above 0xF, else the SKIP advance on the key's state (R164, R165). -/
theorem skipOnKey_cases (x : RegIx) (p : Bool) (s : State) :
    (15 < (s.reg x).toNat ∧ skipOnKey x p s = s.raiseHalt .keyIndexOutOfRange) ∨
      ∃ k : KeyIx, k.val = (s.reg x).toNat ∧ skipOnKey x p s = s.skipIf (s.keyPressed k == p) := by
  unfold skipOnKey keyNumber
  by_cases h : (s.reg x).toNat < 16
  · exact .inr ⟨⟨_, h⟩, rfl, by simp [h]⟩
  · exact .inl ⟨by omega, by simp [h]⟩

/-- CALL: overflow at SP = 16, a push below it, the model's stop above it (R142). -/
theorem execCall_cases (nnn : Addr) (s : State) :
    (s.sp.toNat = 16 ∧ execCall nnn s = .next (s.raiseHalt .stackOverflow)) ∨
      (∃ h : s.sp.toNat < 16, execCall nnn s = .next ((s.push h s.returnAddress).setPc nnn.toNat)) ∨
      (16 < s.sp.toNat ∧ execCall nnn s = .fault .stackPointerIllegal) := by
  unfold execCall
  split
  · exact .inl ⟨‹_›, rfl⟩
  · split
    · exact .inr (.inl ⟨‹_›, rfl⟩)
    · exact .inr (.inr ⟨by omega, rfl⟩)

/-- RET: underflow at SP = 0, a pop in 1 to 16, the model's stop above (R140). -/
theorem execRet_cases (s : State) :
    (s.sp.toNat = 0 ∧ execRet s = .next (s.raiseHalt .stackUnderflow)) ∨
      (∃ h : 0 < s.sp.toNat ∧ s.sp.toNat ≤ 16, execRet s = .next (s.popSp.setPc (s.stackTop h).toNat)) ∨
      (16 < s.sp.toNat ∧ execRet s = .fault .stackPointerIllegal) := by
  unfold execRet
  split
  · exact .inl ⟨‹_›, rfl⟩
  · split
    · exact .inr (.inl ⟨‹_›, rfl⟩)
    · exact .inr (.inr ⟨by omega, rfl⟩)

/-! ### STEP -/

/-- Everything a STEP that answers a next state can do (R120): nothing outside RUNNING, a halt for a failed fetch, or the
fetched instruction. -/
theorem step_cases {s t : State} (h : step s = .next t) :
    (s.execState ≠ .running ∧ t = s) ∨
      (s.execState = .running ∧ ∃ c, s.fetch = .error c ∧ t = s.raiseHalt c) ∨
      (s.execState = .running ∧ ∃ i, s.fetch = .instr i ∧ exec i s = .next t) := by
  unfold step at h
  split at h
  · rename_i e; cases h; exact .inl ⟨by simp [e], rfl⟩
  · rename_i e; cases h; exact .inl ⟨by simp [e], rfl⟩
  · rename_i e
    split at h
    · cases h; exact .inr (.inl ⟨e, _, ‹_›, rfl⟩)
    · exact .inr (.inr ⟨e, _, ‹_›, h⟩)

/-! ### Blocks that instructions store -/

@[simp] theorem length_decimalDigits (b : Byte) : (decimalDigits b).length = 3 := rfl

@[simp] theorem length_regsUpTo (s : State) (x : RegIx) : (s.regsUpTo x).length = x.val + 1 := by
  simp [State.regsUpTo]

/-- Byte k of the stored block is register k (R224). -/
theorem getElem_regsUpTo (s : State) (x : RegIx) (k : Nat) (h : k < (s.regsUpTo x).length) :
    (s.regsUpTo x)[k] = s.reg ⟨k, by simp at h; omega⟩ := by
  simp [State.regsUpTo, State.reg]

@[simp] theorem length_bytesOfWord (w : Word) : (bytesOfWord w).length = 2 := rfl

/-- Addresses counted from I: I + k is k addresses after I + 0, mod 4096 (R64). -/
theorem indexAddr_eq (s : State) (k : Nat) : s.indexAddr k = s.indexAddr 0 + BitVec.ofNat 12 k := by
  simp only [State.indexAddr]; bv_omega

end Sys2Proof.Machine
end

