-- ==== Sys2Proof/Tests/Slice0.lean ====
section
/-! SUPPORT. The model's own tests: the checks of WellFormed on ill-formed terms, the decoding of words written out from the
opcode map (spec 30_encoding.md R97), one step of each instruction on the vectors of 95_test_vectors.md (a test names its
vector T or S), and a witness that meets the hypotheses of each statement that has any. -/

namespace Sys2Proof.Tests

open Sys2Proof Sys2Proof.Machine

-- One thread for these theorems: each `decide +kernel` run of its own would take a thread.
set_option Elab.async false

/-! ### Building small states -/

/-- The reset state with some registers written. -/
def regs (l : List (RegIx × Byte)) : State := l.foldl (fun s r => s.setReg r.1 r.2) State.reset

/-- The reset state with bytes stored from an address on. -/
def bytes (a : Addr) (bs : List Byte) : State := State.reset.store a bs

/-- A framebuffer in which just the listed pixels are set. -/
def picture (l : List (Fin 64 × Fin 32)) : FrameBuffer := l.foldl (fun fb q => fb.flip q.1 q.2) FrameBuffer.clear

/-- A word run in one step from a state, and a question about the state after it. -/
def ran (w : Nat) (s : State) (ask : State → Bool) : Bool :=
  match step (s.withFetchWord 16 w) with
  | .next t => ask t
  | .fault _ => false
  | .refused _ => false

/-- The step of the word halts with the given code and changes nothing but EXEC. -/
def halts (w : Nat) (s : State) (c : HaltCode) : Bool :=
  ran w s fun t => t = { s.withFetchWord 16 w with execState := .halted c }

/-! ### WellFormed: a word of each family that no row of the opcode map matches, and an image that is too long -/

theorem test_illegal_family0 : legalWord 0x0123 = false ∧ legalWord 0x00E1 = false := by decide
theorem test_illegal_family5 : legalWord 0x5121 = false ∧ legalWord 0x5120 = true := by decide
theorem test_illegal_family8 : legalWord 0x8128 = false ∧ legalWord 0x812C = false ∧ legalWord 0x812F = false := by decide
theorem test_illegal_family9 : legalWord 0x9121 = false ∧ legalWord 0x9120 = true := by decide
theorem test_illegal_familyE : legalWord 0xE09F = false ∧ legalWord 0xE09E = true := by decide
theorem test_illegal_familyF : legalWord 0xF000 = false ∧ legalWord 0xF0FF = false := by decide

/-- S5: 3584 bytes are a legal image, 3585 are not. -/
theorem test_image_length :
    legalImage (List.replicate 3584 0) = true ∧ legalImage (List.replicate 3585 0) = false := by
  constructor <;> (unfold legalImage; rw [List.length_replicate]; decide)

/-! ### Decoding: every constructor's word, written out from its pattern in the opcode map -/

theorem test_decode_control :
    decode 0x00EE = .instr .ret ∧ decode 0x1234 = .instr (.jp 0x234) ∧ decode 0x2468 = .instr (.call 0x468) ∧
    decode 0xB3F8 = .instr (.jpV0 0x3F8) := by decide
theorem test_decode_skips :
    decode 0x3342 = .instr (.seImm 3 0x42) ∧ decode 0x4C9D = .instr (.sneImm 12 0x9D) ∧
    decode 0x5AB0 = .instr (.seReg 10 11) ∧ decode 0x91E0 = .instr (.sneReg 1 14) ∧
    decode 0xE59E = .instr (.skp 5) ∧ decode 0xEFA1 = .instr (.sknp 15) := by decide
theorem test_decode_loads_and_logic :
    decode 0x6A2F = .instr (.ldImm 10 0x2F) ∧ decode 0x7103 = .instr (.addImm 1 0x03) ∧
    decode 0x8120 = .instr (.ldReg 1 2) ∧ decode 0x8341 = .instr (.or 3 4) ∧ decode 0x8562 = .instr (.and 5 6) ∧
    decode 0x8783 = .instr (.xor 7 8) := by decide
theorem test_decode_arithmetic :
    decode 0x8F14 = .instr (.addReg 15 1) ∧ decode 0x89A5 = .instr (.sub 9 10) ∧ decode 0x8BC6 = .instr (.shr 11 12) ∧
    decode 0x8DE7 = .instr (.subn 13 14) ∧ decode 0x8F0E = .instr (.shl 15 0) ∧
    decode 0xC30F = .instr (.rnd 3 0x0F) := by decide
theorem test_decode_index_and_memory :
    decode 0xA2F0 = .instr (.ldI 0x2F0) ∧ decode 0xF41E = .instr (.addIVx 4) ∧ decode 0xFA29 = .instr (.ldFVx 10) ∧
    decode 0xF133 = .instr (.ldBVx 1) ∧ decode 0xF255 = .instr (.ldMIVx 2) ∧
    decode 0xF365 = .instr (.ldVxMI 3) := by decide
theorem test_decode_display_and_timers :
    decode 0x00E0 = .instr .cls ∧ decode 0xD5A3 = .instr (.drw 5 10 3) ∧ decode 0xF107 = .instr (.ldVxDt 1) ∧
    decode 0xF30A = .instr (.ldVxK 3) ∧ decode 0xF615 = .instr (.ldDtVx 6) ∧
    decode 0xF718 = .instr (.ldStVx 7) := by decide
theorem test_decode_rejects :
    decode 0x0000 = .invalid 0 ∧ decode 0x512F = .invalid 0x512F ∧ decode 0x8FFF = .invalid 0x8FFF ∧
    decode 0xEFFF = .invalid 0xEFFF ∧ decodeBytes [] = .truncated ∧ decodeBytes [0x12] = .truncated := by decide
theorem test_decodeTableWord :
    decodeTableWord 16 0xD5A3 = some (.drw 5 10 3) ∧ decodeTableWord 16 0x0123 = none := by decide
/-- The first byte in memory is the high byte of the word. -/
theorem test_decodeBytes_order : decodeBytes [0x12, 0x34, 0xFF] = .instr (.jp 0x234) := by decide
theorem test_opcode_map_has_34_rows : opcodeMap.length = 34 ∧ opcodeMap.Nodup := by decide

/-! ### Step, fetch and decode -/

/-- T1 and T7. -/
theorem test_invalid_word_halts :
    step State.reset = .next (State.reset.raiseHalt .invalidOpcode) ∧ halts 0xF0FF State.reset .invalidOpcode = true :=
  ⟨rfl, by decide +kernel⟩
/-- T8 and T12. -/
theorem test_fetch_range :
    step (State.reset.setPc 0xFFF) = .next ((State.reset.setPc 0xFFF).raiseHalt .fetchOutOfRange) ∧
    step (State.reset.raiseHalt .invalidOpcode) = .next (State.reset.raiseHalt .invalidOpcode) := ⟨rfl, rfl⟩
/-- T11. -/
theorem test_fetch_at_last_address : ran 0x1200 (State.reset.setPc 0xFFE) (fun t => t.pc = 0x200) = true := by
  decide +kernel
/-- T13. -/
theorem test_odd_fetch :
    ran 0x607F (State.reset.setPc 0x201) (fun t => t.pc = 0x203 ∧ t.reg 0 = 0x7F) = true := by decide +kernel
theorem test_placed_bytes_big_endian :
    (State.reset.withFetchWord 16 0x1234).mem = [(0x200, 0x12), (0x201, 0x34)] := by decide +kernel

/-! ### Control transfer -/

/-- T20. -/
theorem test_jp : ran 0x1234 State.reset (fun t => t.pc = 0x234) = true := by decide +kernel
/-- T23. -/
theorem test_call_sixteenth :
    ran 0x2300 { State.reset with sp := 15 }
      (fun t => t.stack[15] = 0x202 ∧ t.stack[14] = 0 ∧ t.sp = 16 ∧ t.pc = 0x300) = true := by decide +kernel
/-- T24. -/
theorem test_call_overflow : halts 0x2300 { State.reset with sp := 16 } .stackOverflow = true := by decide +kernel
/-- T25. -/
theorem test_ret :
    ran 0x00EE { State.reset with sp := 1, pc := 0x310, stack := State.reset.stack.set 0 0x206 }
      (fun t => t.sp = 0 ∧ t.pc = 0x206 ∧ t.stack[0] = 0x206) = true := by decide +kernel
/-- T26. -/
theorem test_ret_underflow : halts 0x00EE State.reset .stackUnderflow = true := by decide +kernel
/-- T29. -/
theorem test_jpV0_wraps : ran 0xBFFF (regs [(0, 0xFF)]) (fun t => t.pc = 0x0FE) = true := by decide +kernel
/-- T31. -/
theorem test_jpV0_ignores_x : ran 0xB500 (regs [(5, 0x40)]) (fun t => t.pc = 0x500) = true := by decide +kernel

/-! ### Skips -/

/-- T40 and T41. -/
theorem test_seImm :
    ran 0x3342 ((regs [(3, 0x42)]).setPc 0x210) (fun t => t.pc = 0x214) = true ∧
    ran 0x3342 ((regs [(3, 0x41)]).setPc 0x210) (fun t => t.pc = 0x212) = true := by decide +kernel
/-- T53. -/
theorem test_seImm_past_the_end : ran 0x3000 (State.reset.setPc 0xFFE) (fun t => t.pc = 0x1002) = true := by
  decide +kernel
/-- T42 and T43. -/
theorem test_sneImm :
    ran 0x4342 ((regs [(3, 0x41)]).setPc 0x210) (fun t => t.pc = 0x214) = true ∧
    ran 0x4342 ((regs [(3, 0x42)]).setPc 0x210) (fun t => t.pc = 0x212) = true := by decide +kernel
/-- T44, and the same with V2 = 8. -/
theorem test_seReg :
    ran 0x5120 (regs [(1, 7), (2, 7)]) (fun t => t.pc = 0x204) = true ∧
    ran 0x5120 (regs [(1, 7), (2, 8)]) (fun t => t.pc = 0x202) = true := by decide +kernel
/-- T46 and T47. -/
theorem test_sneReg :
    ran 0x9120 (regs [(1, 7), (2, 8)]) (fun t => t.pc = 0x204) = true ∧
    ran 0x9110 (regs [(1, 7)]) (fun t => t.pc = 0x202) = true := by decide +kernel
/-- T48 and T49. -/
theorem test_skp :
    ran 0xE59E ((hostSetKeys 0x0400 (regs [(5, 0x0A)])).setPc 0x220) (fun t => t.pc = 0x224) = true ∧
    ran 0xE59E ((regs [(5, 0x0A)]).setPc 0x220) (fun t => t.pc = 0x222) = true := by decide +kernel
/-- T50. -/
theorem test_sknp : ran 0xE5A1 ((regs [(5, 0x0A)]).setPc 0x220) (fun t => t.pc = 0x224) = true := by decide +kernel
/-- T51. -/
theorem test_key_out_of_range :
    halts 0xE59E (regs [(5, 0x10)]) .keyIndexOutOfRange = true ∧
    halts 0xE5A1 (regs [(5, 0x10)]) .keyIndexOutOfRange = true := by decide +kernel

/-! ### Registers and arithmetic -/

/-- T60. -/
theorem test_ldImm : ran 0x6A2F State.reset (fun t => t.reg 10 = 0x2F ∧ t.pc = 0x202) = true := by decide +kernel
/-- T61. -/
theorem test_addImm_no_flag :
    ran 0x7103 (regs [(1, 0xFE), (15, 1)]) (fun t => t.reg 1 = 0x01 ∧ t.reg 15 = 1) = true := by decide +kernel
/-- T62. -/
theorem test_addImm_vf : ran 0x7F01 (regs [(15, 0xFF)]) (fun t => t.reg 15 = 0) = true := by decide +kernel
/-- T63. -/
theorem test_ldReg : ran 0x8120 (regs [(2, 0x99)]) (fun t => t.reg 1 = 0x99 ∧ t.reg 2 = 0x99) = true := by
  decide +kernel
/-- T65. -/
theorem test_or_reads_vf_first :
    ran 0x81F1 (regs [(1, 0x01), (15, 0x80)]) (fun t => t.reg 1 = 0x81 ∧ t.reg 15 = 0) = true := by decide +kernel
/-- T66. -/
theorem test_or_flag_wins : ran 0x8F21 (regs [(2, 0xF0), (15, 0x0F)]) (fun t => t.reg 15 = 0) = true := by
  decide +kernel
/-- T67, with VF set before. -/
theorem test_and :
    ran 0x8122 (regs [(1, 0x3C), (2, 0x0F), (15, 1)]) (fun t => t.reg 1 = 0x0C ∧ t.reg 15 = 0) = true := by
  decide +kernel
/-- T68, with VF set before. -/
theorem test_xor :
    ran 0x8123 (regs [(1, 0x3C), (2, 0x0F), (15, 1)]) (fun t => t.reg 1 = 0x33 ∧ t.reg 15 = 0) = true := by
  decide +kernel
/-- T69 and T70. -/
theorem test_addReg_carry :
    ran 0x8124 (regs [(1, 0x80), (2, 0x80)]) (fun t => t.reg 1 = 0x00 ∧ t.reg 15 = 1) = true ∧
    ran 0x8124 (regs [(1, 0x7F), (2, 0x80)]) (fun t => t.reg 1 = 0xFF ∧ t.reg 15 = 0) = true := by decide +kernel
/-- T71. -/
theorem test_addReg_flag_wins : ran 0x8F14 (regs [(1, 0x20), (15, 0x10)]) (fun t => t.reg 15 = 0) = true := by
  decide +kernel
/-- S7 and T72. -/
theorem test_sub_borrow :
    ran 0x8125 (regs [(1, 0x01), (2, 0x02)]) (fun t => t.reg 1 = 0xFF ∧ t.reg 15 = 0) = true ∧
    ran 0x8125 (regs [(1, 0x05), (2, 0x05)]) (fun t => t.reg 1 = 0x00 ∧ t.reg 15 = 1) = true := by decide +kernel
/-- T73. -/
theorem test_sub_flag_wins : ran 0x8F15 (regs [(1, 0x03), (15, 0x05)]) (fun t => t.reg 15 = 1) = true := by
  decide +kernel
/-- T74. -/
theorem test_shr_reads_vy :
    ran 0x8126 (regs [(1, 0xAA), (2, 0x05)]) (fun t => t.reg 1 = 0x02 ∧ t.reg 15 = 1) = true := by decide +kernel
/-- T76. -/
theorem test_shr_flag_wins : ran 0x8F26 (regs [(2, 0x04)]) (fun t => t.reg 15 = 0) = true := by decide +kernel
/-- T77 and T78. -/
theorem test_subn :
    ran 0x8127 (regs [(1, 0x02), (2, 0x05)]) (fun t => t.reg 1 = 0x03 ∧ t.reg 15 = 1) = true ∧
    ran 0x8127 (regs [(1, 0x05), (2, 0x02)]) (fun t => t.reg 1 = 0xFD ∧ t.reg 15 = 0) = true := by decide +kernel
/-- T79 and T80. -/
theorem test_shl :
    ran 0x812E (regs [(2, 0x81)]) (fun t => t.reg 1 = 0x02 ∧ t.reg 15 = 1) = true ∧
    ran 0x812E (regs [(2, 0x40)]) (fun t => t.reg 1 = 0x80 ∧ t.reg 15 = 0) = true := by decide +kernel
/-- T81. -/
theorem test_shl_flag_wins : ran 0x8FFE (regs [(15, 0x81)]) (fun t => t.reg 15 = 1) = true := by decide +kernel
/-- T82: with the random byte 0xB7. -/
theorem test_rnd_masks : ((writeRandom 3 0x0F 0xB7 State.reset).reg 3, (writeRandom 3 0x0F 0xB7 State.reset).pc) =
    (0x07, 0x202) := by decide +kernel
/-- One draw for each execution, whatever the mask. -/
theorem test_rnd_draws : ran 0xC300 State.reset (fun t => t.draws = 1 ∧ t.pc = 0x202) = true := by decide +kernel

/-! ### Index register and memory -/

/-- T90. -/
theorem test_ldI : ran 0xA2F0 State.reset (fun t => t.i = 0x2F0) = true := by decide +kernel
/-- T91 and T92. -/
theorem test_addIVx :
    ran 0xF41E ((regs [(4, 0x20)]).setI 0x300) (fun t => t.i = 0x320) = true ∧
    ran 0xF41E ((regs [(4, 0x01)]).setI 0xFFF) (fun t => t.i = 0x000 ∧ t.reg 15 = 0) = true := by decide +kernel
/-- T94. -/
theorem test_ldFVx_above_F : ran 0xFA29 (regs [(10, 0xFF)]) (fun t => t.i = 0x4FB) = true := by decide +kernel
/-- T95. -/
theorem test_ldBVx :
    ran 0xF133 ((regs [(1, 0xFE)]).setI 0x300)
      (fun t => t.mem.readBlock 0x300 3 = [0x02, 0x05, 0x04] ∧ t.i = 0x300) = true := by decide +kernel
/-- T98. -/
theorem test_ldBVx_wraps :
    ran 0xF133 ((regs [(1, 0x7B)]).setI 0xFFF)
      (fun t => t.mem.read 0xFFF = 1 ∧ t.mem.read 0x000 = 2 ∧ t.mem.read 0x001 = 3 ∧ t.i = 0xFFF) = true := by
  decide +kernel
/-- T99. -/
theorem test_ldMIVx :
    ran 0xF255 ((regs [(0, 0x11), (1, 0x22), (2, 0x33), (3, 0x44)]).setI 0x300)
      (fun t => t.mem.readBlock 0x300 4 = [0x11, 0x22, 0x33, 0x00] ∧ t.i = 0x303) = true := by decide +kernel
/-- T100. -/
theorem test_ldMIVx_wraps :
    ran 0xF055 ((regs [(0, 0xAB)]).setI 0xFFF) (fun t => t.mem.read 0xFFF = 0xAB ∧ t.i = 0x000) = true := by
  decide +kernel
/-- T101. -/
theorem test_ldVxMI_all :
    ran 0xFF65 ((bytes 0x300 [0, 1, 2, 3, 4, 5, 6, 7, 8, 9, 10, 11, 12, 13, 14, 15]).setI 0x300)
      (fun t => t.v.toList = [0, 1, 2, 3, 4, 5, 6, 7, 8, 9, 10, 11, 12, 13, 14, 15] ∧ t.i = 0x310) = true := by
  decide +kernel
theorem test_ldVxMI_leaves_higher :
    ran 0xF165 (((regs [(2, 0x77)]).store 0x300 [8, 9, 10]).setI 0x300)
      (fun t => t.reg 0 = 8 ∧ t.reg 1 = 9 ∧ t.reg 2 = 0x77) = true := by decide +kernel

/-! ### Display -/

/-- T110, with VF set before. -/
theorem test_cls :
    ran 0x00E0 ((regs [(15, 1)]).setFb (picture [(0, 0), (63, 31)]))
      (fun t => t.fb = FrameBuffer.clear ∧ t.reg 15 = 1) = true := by decide +kernel
/-- T113: clipped at the corner, not wrapped. -/
theorem test_drw_clips :
    ran 0xD012 (((regs [(0, 62), (1, 31)]).store 0x300 [0xFF, 0xFF]).setI 0x300)
      (fun t => t.fb = picture [(62, 31), (63, 31)] ∧ t.reg 15 = 0 ∧ t.i = 0x300) = true := by decide +kernel
/-- T119: the second row hits. -/
theorem test_drw_collides :
    ran 0xD012 ((((regs [(0, 5), (1, 4)]).store 0x300 [0x00, 0x80]).setI 0x300).setFb (picture [(5, 5)]))
      (fun t => t.fb = picture [] ∧ t.reg 15 = 1) = true := by decide +kernel

/-! ### Timers, keys and host operations -/

/-- T130. -/
theorem test_ldDtVx : ran 0xF015 (regs [(0, 3)]) (fun t => t.dt = 3 ∧ t.st = 0) = true := by decide +kernel
/-- T131. -/
theorem test_ldVxDt : ran 0xF107 (State.reset.setDt 3) (fun t => t.reg 1 = 3 ∧ t.dt = 3) = true := by decide +kernel
/-- T132. -/
theorem test_ldStVx : ran 0xF018 (regs [(0, 2)]) (fun t => t.st = 2 ∧ t.tone = true) = true := by decide +kernel
/-- T136. -/
theorem test_ldVxK :
    ran 0xF30A State.reset (fun t => t.execState = .awaitingKey 3 ∧ t.pc = 0x200 ∧ t.status = 0x0D) = true := by
  decide +kernel
/-- T137 and T138. -/
theorem test_key_release :
    (hostKeyRelease 0xC (State.reset.awaitKey 3)).v = (regs [(3, 0x0C)]).v ∧
    (hostKeyRelease 0xC (State.reset.awaitKey 3)).pc = 0x202 ∧ hostKeyRelease 5 State.reset = State.reset := by
  decide +kernel
/-- T133 and T140. -/
theorem test_timer_poll :
    (hostTimerPoll true 7 (State.reset.setSt 2)).st = 1 ∧ (hostTimerPoll true 7 (State.reset.setSt 2)).dt = 0 ∧
    (hostTimerPoll true 7 ((State.reset.awaitKey 0).setDt 2)).dt = 1 := by decide +kernel
/-- T141. -/
theorem test_set_keys_keeps_latch :
    (hostSetKeys 0 (hostSetKeys 0xFFFF (State.reset.awaitKey 0))).execState = .awaitingKey 0 := by decide +kernel
theorem test_set_keys_bit_order :
    (hostSetKeys 0x0080 State.reset).keyPressed 7 = true ∧ (hostSetKeys 0x0080 State.reset).keyPressed 8 = false := by
  decide +kernel
/-- S5, on a short image. -/
theorem test_load : (hostLoad [0x12, 0x00, 0x34] State.reset).mem = [(0x200, 0x12), (0x202, 0x34)] := by
  decide +kernel
/-- T10. -/
theorem test_reset_from_halted :
    hostReset defaultParams 0 (State.reset.raiseHalt .fetchOutOfRange) = State.reset := by decide +kernel
/-- The STATUS values listed among the conventions of 95_test_vectors.md. -/
theorem test_status_codes :
    [HaltCode.invalidOpcode, .stackOverflow, .stackUnderflow, .fetchOutOfRange, .keyIndexOutOfRange].map
      (fun c => (State.reset.raiseHalt c).status) = [0x06, 0x0A, 0x0E, 0x12, 0x16] := by decide +kernel
/-- R62: glyph 0 lies at 0x000 and glyph F ends at 0x04F. -/
theorem test_font_bytes :
    State.reset.mem.read 0x000 = 0xF0 ∧ State.reset.mem.read 0x04F = 0x80 ∧ State.reset.mem.read 0x050 = 0 := by
  decide +kernel
/-- What perform answers to the host for a STEP, a LOAD and an idle STEP. -/
theorem test_replies :
    (State.reset.stepReply, (State.reset.awaitKey 3).stepReply, (State.reset.raiseHalt .stackOverflow).stepReply,
      loadReply [0x12, 0x00]) = (Reply.ok, .waiting, .halted .stackOverflow, .loadOk) := by decide +kernel
/-- R319: a STEP after a refused LOAD and a second STEP in HALTED are no moves, and after a RESET a STEP is one again. -/
theorem test_host_moves :
    hostMove defaultParams .step ⟨State.reset, true⟩ = none ∧
    (runOps defaultParams [.step, .step] ⟨State.reset, false⟩).isNone = true ∧
    (runOps defaultParams [.reset 0, .step] ⟨State.reset, true⟩).isSome = true := by decide +kernel
/-- R311, R319: what the host remembers of a refused image and of one that fits. -/
theorem test_load_failed_after :
    Session.loadFailedAfter ⟨State.reset, false⟩ (.load (List.replicate 3585 0)) = true ∧
    Session.loadFailedAfter ⟨State.reset, false⟩ (.load [0x12, 0x00]) = false := by
  constructor
  · simp only [Session.loadFailedAfter]; rw [List.length_replicate]; decide
  · decide

/-! ### Witnesses: states and operands that meet the hypotheses of the statements -/

/-- The reset state with `word` at PC. -/
def ready (word : Nat) : State := State.reset.withFetchWord 16 word

/-- A state in which FB is clear, V0 = V1 = 0, and I = 0x300 with the sprite row 0xF0 there (T111). -/
def drawing : State := (bytes 0x300 [0xF0]).setI 0x300

theorem witness_EncodeOfDecodeIsWord :
    decode 0xD5A3 = .instr (.drw 5 10 3) ∧ encode (.drw 5 10 3) = 0xD5A3 ∧ legalWord 0xD5A3 = true := by decide
theorem witness_DecodeFollowsOpcodeMap :
    (⟨"DRW", 0xD000, 0xF000⟩ : OpRow) ∈ opcodeMap ∧ (⟨"DRW", 0xD000, 0xF000⟩ : OpRow).matchesWord 0xDFFF = true ∧
    (⟨"SE_reg", 0x5000, 0xF00F⟩ : OpRow) ∈ opcodeMap ∧ (⟨"SE_reg", 0x5000, 0xF00F⟩ : OpRow).matchesWord 0x5FF0 = true := by
  decide
/-- At the last address a fetch can start from. -/
theorem witness_StepRunsTheDecodedInstruction :
    let s := (State.reset.setPc 0xFFE).withFetchWord 16 0x00E0
    s.execState = .running ∧ s.pc.toNat ≤ 0xFFE ∧
    decode (s.mem.read (BitVec.ofNat 12 s.pc.toNat) ++ s.mem.read (BitVec.ofNat 12 (s.pc.toNat + 1))) = .instr .cls := by
  decide +kernel
theorem witness_UnrecognisedWordHaltsBeforeExecution :
    (ready 0xF0FF).execState = .running ∧ (ready 0xF0FF).pc.toNat ≤ 0xFFE ∧
    ∃ w, decode (ready 0xF0FF).fetchWord = .invalid w := ⟨rfl, by decide +kernel, 0xF0FF, by decide +kernel⟩
theorem witness_StepOutsideRunningIsIdle :
    (State.reset.awaitKey 0).execState ≠ .running ∧ (State.reset.raiseHalt .invalidOpcode).execState ≠ .running := by
  decide +kernel
/-- One instruction of each PC class; the skip both with and without its condition. -/
theorem witness_PcFollowsItsClass :
    (∃ t, exec .cls State.reset = .next t ∧ t.isFailed = false) ∧
    (∃ t, exec (.seImm 0 0) State.reset = .next t ∧ t.isFailed = false) ∧ skipHolds (.seImm 0 0) State.reset ∧
    (∃ t, exec (.seImm 0 1) State.reset = .next t ∧ t.isFailed = false) ∧ ¬ skipHolds (.seImm 0 1) State.reset ∧
    (∃ t, exec (.jp 0x300) State.reset = .next t ∧ t.isFailed = false) ∧
    (∃ t, exec (.ldVxK 3) State.reset = .next t ∧ t.isFailed = false) ∧ State.reset.execState = .running :=
  ⟨⟨_, rfl, rfl⟩, ⟨_, rfl, rfl⟩, rfl, ⟨_, rfl, rfl⟩, by simp [skipHolds, State.reset, State.reg], ⟨_, rfl, rfl⟩,
    ⟨_, rfl, rfl⟩, rfl⟩
/-- A halt by an instruction and a halt by the fetch. -/
theorem witness_HaltsArePrecise :
    State.reset.execState = .running ∧ (State.reset.raiseHalt .stackUnderflow).execState = .halted .stackUnderflow ∧
    exec .ret State.reset = .next (State.reset.raiseHalt .stackUnderflow) ∧
    step State.reset = .next (State.reset.raiseHalt .invalidOpcode) := ⟨rfl, rfl, rfl, rfl⟩
/-- Each side of each clause, at its boundary: PC = 0xFFF, an invalid word, SP = 16, SP = 0, Vx = 0x10. -/
theorem witness_HaltCodesHaveTheirCauses :
    0xFFE < (State.reset.setPc 0xFFF).pc.toNat ∧ decode State.reset.fetchWord = .invalid 0 ∧
    (decode (ready 0x2300).fetchWord = .instr (.call 0x300) ∧ { ready 0x2300 with sp := 16 }.sp.toNat = 16) ∧
    (decode (ready 0x00EE).fetchWord = .instr .ret ∧ (ready 0x00EE).sp.toNat = 0) ∧
    decode (ready 0xE59E).fetchWord = .instr (.skp 5) ∧ 15 < ((regs [(5, 0x10)]).reg 5).toNat := by decide +kernel
theorem witness_InstructionsWriteOnlyTheirParts :
    State.reset.execState = .running ∧ ∃ t, exec (.ldBVx 1) State.reset = .next t ∧ t.isFailed = false :=
  ⟨rfl, _, rfl, rfl⟩
theorem witness_NoInstructionReadsHiddenTimers :
    (∃ t, exec (.ldI 0x300) State.reset = .next t) ∧ (∀ x, Instr.ldI 0x300 ≠ .ldStVx x) ∧
    ∀ x, Instr.ldI 0x300 ≠ .skp x ∧ Instr.ldI 0x300 ≠ .sknp x :=
  ⟨⟨_, rfl⟩, by simp, by simp⟩
/-- With PC at the last address of the range and just past it, and an address outside the two bytes. -/
theorem witness_PlacedWordRunsNext :
    decodeTableWord 16 0xF265 = some (.ldVxMI 2) ∧ (State.reset.setPc 0xFFE).pc.toNat ≤ 0xFFE ∧
    0xFFE < (State.reset.setPc 0xFFF).pc.toNat ∧ (0x202 : Addr) ≠ BitVec.ofNat 12 (ready 0xF265).pc.toNat ∧
    (0x202 : Addr) ≠ BitVec.ofNat 12 ((ready 0xF265).pc.toNat + 1) := by decide +kernel
/-- The clauses on x ≠ F at x = E; the x = F side is in the tests of T66, T71, T73, T76 and T81. -/
theorem witness_flag_clauses : (14 : RegIx) ≠ 15 ∧ ¬ ((15 : RegIx) ≠ 15) := by decide
theorem witness_RegisterSkipsCompare : (15 : BitVec 4) ≠ 0 ∧ decode 0x5FFF = .invalid 0x5FFF := by decide
/-- Key F is named by Vx = 0xF; Vx = 0x10 names none. -/
theorem witness_KeySkipsTestTheKeypad :
    (15 : KeyIx).val = ((regs [(5, 0x0F)]).reg 5).toNat ∧ 15 < ((regs [(5, 0x10)]).reg 5).toNat := by decide +kernel
theorem witness_CallPushesReturnAddress :
    { State.reset with sp := 15 }.sp.toNat < 16 ∧ { State.reset with sp := 16 }.sp.toNat = 16 := by decide
theorem witness_ReturnPopsPc :
    { State.reset with sp := 1 }.sp.toNat = (0 : Fin 16).val + 1 ∧
    { State.reset with sp := 16 }.sp.toNat = (15 : Fin 16).val + 1 ∧ State.reset.sp.toNat = 0 := by decide
theorem witness_CallThenReturnResumesAfterCall :
    { State.reset with sp := 15 }.sp.toNat < 16 ∧
    ∃ t, exec (.call 0x300) { State.reset with sp := 15 } = .next t ∧ t.sp = t.sp ∧ t.stack = t.stack :=
  ⟨by decide, _, rfl, rfl, rfl⟩
/-- P5. -/
theorem witness_RecursiveCallOverflowsAtDepth17 :
    (ready 0x2200).execState = .running ∧ (ready 0x2200).pc.toNat ≤ 0xFFE ∧ (ready 0x2200).sp.toNat = 0 ∧
    decode (ready 0x2200).fetchWord = .instr (.call (BitVec.ofNat 12 (ready 0x2200).pc.toNat)) := by decide +kernel
theorem witness_IllegalStackPointerStops : 16 < { State.reset with sp := 17 }.sp.toNat := by decide
/-- The clause on the digits at Vx = 0xF. -/
theorem witness_FontAddressIsFiveTimesVx : ((regs [(1, 0x0F)]).reg 1).toNat ≤ 15 := by decide +kernel
/-- The first and the last byte of the block when x = 2, an address outside it, and x < k for a register left alone. -/
theorem witness_register_blocks :
    (0 : RegIx) ≤ 2 ∧ (2 : RegIx) ≤ 2 ∧ (2 : RegIx) < 3 ∧
    ∀ k : RegIx, k ≤ 2 → (0x303 : Addr) ≠ (State.reset.setI 0x300).indexAddr k.val := by decide +kernel
theorem witness_DecimalDigitsAreStored :
    (0x303 : Addr) ≠ (State.reset.setI 0x300).indexAddr 0 ∧ (0x303 : Addr) ≠ (State.reset.setI 0x300).indexAddr 1 ∧
    (0x303 : Addr) ≠ (State.reset.setI 0x300).indexAddr 2 := by decide +kernel
/-- P6, at the highest PC that the statement allows. -/
theorem witness_StoredCodeRunsAtTheNextStep :
    let s := ((regs [(0, 0x1F), (1, 0xFE)]).setPc 0xFFC).setI 0xFFE
    1 ≤ (1 : RegIx).val ∧ s.execState = .running ∧ s.pc.toNat ≤ 0xFFC ∧ s.i.toNat = s.pc.toNat + 2 ∧
    decode (s.reg 0 ++ s.reg 1) = .instr (.jp 0xFFE) := by decide +kernel
/-- T112, for DrawTwiceRestoresFramebuffer and SecondDrawCollidesWheneverSpriteIsVisible. -/
theorem witness_draw_twice :
    (0 : RegIx) ≠ 15 ∧ (1 : RegIx) ≠ 15 ∧ ∃ t r, exec (.drw 0 1 1) drawing = .next t ∧ t.reg 15 = 0 ∧ t.v = t.v ∧ t.i = t.i ∧
      t.mem = t.mem ∧ t.fb = t.fb ∧ exec (.drw 0 1 1) t = .next r :=
  ⟨by decide, by decide, _, _, rfl, by decide +kernel, rfl, rfl, rfl, rfl, rfl⟩
theorem witness_SetSoundTimerDrivesTone : (regs [(0, 1)]).reg 0 = 1 := by decide +kernel
theorem witness_KeyReleaseResolvesTheLatch :
    (State.reset.awaitKey 15).execState = .awaitingKey 15 ∧ State.reset.isAwaiting = false ∧
    (State.reset.raiseHalt .invalidOpcode).isAwaiting = false := by decide +kernel
/-- Two polls 16 ms apart (S9). -/
theorem witness_PollsWithinAPeriodCountOnce :
    State.reset.timerRef ≤ 20000000 ∧ 20000000 ≤ 36000000 ∧ 60 * (36000000 - 20000000) < nanosPerSecond := by decide
theorem witness_SetKeysWritesOnlyTheKeypad :
    (State.reset.awaitKey 0).isAwaiting = true ∧ (∀ j, Op.step ≠ .keyRelease j) ∧ (∀ n, Op.step ≠ .reset n) ∧
    perform defaultParams .step (State.reset.awaitKey 0) = .next (State.reset.awaitKey 0, .waiting) :=
  ⟨rfl, by simp, by simp, rfl⟩
theorem witness_WaitStatesEndOnlyAsListed :
    (State.reset.awaitKey 3).execState = .awaitingKey 3 ∧ (State.reset.awaitKey 3).execState ≠ .running ∧
    (State.reset.raiseHalt .stackOverflow).execState = .halted .stackOverflow ∧
    (State.reset.raiseHalt .stackOverflow).isFailed = true ∧ (∀ now, Op.reset now ∉ [Op.timerPoll true 5]) ∧
    (∀ k, Op.timerPoll true 5 ≠ .keyRelease k) ∧ (∀ now, Op.timerPoll true 5 ≠ .reset now) ∧
    (∃ t, perform defaultParams (.timerPoll true 5) (State.reset.raiseHalt .stackOverflow) = .next (t, .none)) :=
  ⟨rfl, by simp [State.awaitKey], rfl, rfl, by simp, by simp, by simp, _, rfl⟩
/-- The two sides of the length, at 3584 and 3585 bytes; the addresses below and above a two-byte image. -/
theorem witness_LoadCopiesTheImage :
    (List.replicate 3584 (0 : Byte)).length ≤ 3584 ∧ 3584 < (List.replicate 3585 (0 : Byte)).length ∧
    (∀ now, Op.reset now ∉ [Op.setKeys 0]) ∧ (0x1FF : Addr).toNat < 0x200 ∧ 0x200 + [(0x12 : Byte), 0x00].length ≤ (0x202 : Addr).toNat := by
  rw [List.length_replicate, List.length_replicate]; exact ⟨by decide, by decide, by simp, by decide, by decide⟩
/-- The address clauses of ResetGivesConstructionValues at the edge of the font. -/
theorem witness_ResetGivesConstructionValues :
    (5 * (15 : Fin 16).val + (4 : Fin 5).val = 0x04F) ∧ 0x050 ≤ (0x050 : Addr).toNat := by decide
/-- One state for each hypothesis on EXEC. -/
theorem witness_OutputsShowTheState :
    State.reset.execState = .running ∧ (State.reset.awaitKey 15).execState = .awaitingKey 15 ∧
    (State.reset.awaitKey 15).status = 0x3D ∧ ∀ c, (State.reset.raiseHalt c).execState = .halted c :=
  ⟨rfl, rfl, by decide +kernel, fun _ => rfl⟩
/-- T21. -/
theorem witness_SelfJumpRepeatsForever : (ready 0x1200).atSelfJump = true := by decide +kernel
theorem witness_CanonicalMemoriesWithEqualReadsAreEqual :
    Memory.wf [(0x200, 0x12)] ∧ Memory.wf ((Memory.write [] 0x200 0x12)) ∧
    ∀ a, Memory.read [(0x200, 0x12)] a = (Memory.write [] 0x200 0x12).read a :=
  ⟨by decide +kernel, by decide +kernel, fun _ => rfl⟩
/-- Also with the largest SP, PC and I that the invariant allows. -/
theorem witness_StepKeepsTheInvariant :
    (ready 0x1200).Inv ∧ (∃ t, step (ready 0x1200) = .next t) ∧
    { State.reset with sp := 16, pc := 0x1002, i := 0xFFF }.Inv :=
  ⟨by decide +kernel, ⟨_, rfl⟩, by decide +kernel⟩
/-- The step clause on a key wait that KEY_RELEASE ends at the highest PC, and the clause on runs. -/
theorem witness_HostOperationsKeepTheInvariant :
    ((State.reset.setPc 0xFFE).awaitKey 3).Inv ∧
    (∃ t, perform defaultParams (.keyRelease 7) ((State.reset.setPc 0xFFE).awaitKey 3) = .next (t, .none)) ∧
    Reachable defaultParams State.reset ∧ ReachableByAnyHost defaultParams State.reset ∧ Op.reset 0 ≠ .step ∧
    State.reset.isFailed = false ∧ State.reset.Inv :=
  ⟨by decide +kernel, ⟨_, rfl⟩,
    ⟨0, 0, [], false, congrArg (fun s => some (Host.Outcome.next (Session.mk s false))) test_reset_from_halted⟩,
    ⟨0, 0, [], congrArg _ test_reset_from_halted⟩, by simp, rfl, by decide +kernel⟩
theorem witness_StepAnswersUnderTheInvariant : { State.reset with sp := 16 }.sp.toNat ≤ 16 := by decide
/-- A state in which the latch is set and its word is at PC. -/
theorem witness_StepKeepsTheLatchWord :
    ((ready 0xF30A).awaitKey 3).latchMatches ∧ ((ready 0xF30A).awaitKey 3).isAwaiting = true := by
  refine ⟨fun t ht => ?_, rfl⟩
  obtain rfl : (3 : RegIx) = t := by simpa [State.awaitKey] using ht
  decide +kernel

/-! ### The model's free value -/

/-- T83 for every provider: a mask of zero gives zero. -/
theorem test_rnd_zero_mask :
    ∃ t, exec (.rnd 3 0) State.reset = .next t ∧ t.reg 3 = Config.randomByte State.reset.draws &&& 0 := ⟨_, rfl, rfl⟩

end Sys2Proof.Tests
end

section
/-! SUPPORT. STEP and the program counter (spec 40_step.md R120 to R126): what STEP answers when the fetch fails,
what a halt leaves unchanged, and how the instructions of each PC class write PC. -/

namespace Sys2Proof.Machine

/-! ### STEP in RUNNING -/

/-- A failed fetch halts with its code (R123, R124). -/
theorem step_of_fetch_error {s : State} {c : HaltCode} (hr : s.execState = .running) (hf : s.fetch = .error c) :
    step s = .next (s.raiseHalt c) := by
  simp [step, hr, hf]

/-- A write of EXEC, such as a halt (R302) or the key wait (R283), changes no other part of the state. -/
theorem frameExcept_execState (s : State) (e : ExecState) :
    FrameExcept [.execState] s { s with execState := e } := by
  intro p hp
  cases p with
  | execState => exact absurd (List.mem_singleton_self _) hp
  | _ => simp [Part.same, State.reg, State.keyPressed]

/-- A halted state is *failed* (R323). -/
@[simp] theorem State.raiseHalt_isFailed (s : State) (c : HaltCode) : (s.raiseHalt c).isFailed = true := rfl

/-! ### The PC classes -/

/-- A SEQ instruction ends with the advance, and what it does before leaves PC alone (R126). -/
theorem exec_of_seq {i : Instr} (hc : pcClass i = .seq) (s : State) :
    ∃ u : State, exec i s = .next u.advance ∧ u.pc = s.pc := by
  -- `cases hc` drops the constructors of the other classes; the rest are written as an advance.
  cases i <;> cases hc <;> exact ⟨_, rfl, rfl⟩

/-- A key skip halts, or skips exactly when Vx names a key in the state it asks for (R164, R165). -/
theorem skipOnKey_skips (x : RegIx) (p : Bool) (s : State) :
    skipOnKey x p s = s.raiseHalt .keyIndexOutOfRange ∨
      ∃ c : Bool, (c = true ↔ ∃ k : KeyIx, k.val = (s.reg x).toNat ∧ s.keyPressed k = p) ∧
        skipOnKey x p s = s.skipIf c := by
  obtain ⟨-, h⟩ | ⟨k, hk, h⟩ := skipOnKey_cases x p s
  · exact .inl h
  · refine .inr ⟨_, ⟨fun hp => ⟨k, hk, eq_of_beq hp⟩, ?_⟩, h⟩
    rintro ⟨k', hk', hp⟩
    obtain rfl : k' = k := Fin.ext (hk'.trans hk.symm)
    exact beq_iff_eq.2 hp

/-- A SKIP instruction halts, or is the SKIP advance on its condition (R126, R166). -/
theorem exec_of_skip {i : Instr} (hc : pcClass i = .skip) (s : State) :
    exec i s = .next (s.raiseHalt .keyIndexOutOfRange) ∨
      ∃ c : Bool, (c = true ↔ skipHolds i s) ∧ exec i s = .next (s.skipIf c) := by
  have key (x : RegIx) (p : Bool) := skipOnKey_skips x p s
  cases i <;> cases hc
  case skp x => exact (key x true).imp (congrArg _) fun ⟨c, hs, h⟩ => ⟨c, hs, congrArg _ h⟩
  case sknp x => exact (key x false).imp (congrArg _) fun ⟨c, hs, h⟩ => ⟨c, hs, congrArg _ h⟩
  -- The four register skips take their condition as a decided proposition.
  all_goals
    refine .inr ⟨_, ?_, rfl⟩
    exact decide_eq_true_iff

/-- An XFER instruction that does not halt writes PC with its target (R126, R140 to R143). -/
theorem pc_of_xfer {i : Instr} {s t : State} (hc : pcClass i = .xfer) (h : exec i s = .next t)
    (hf : t.isFailed = false) : t.pc = BitVec.ofNat 16 (xferTarget i s) := by
  cases i <;> cases hc
  case jp nnn => cases h; rfl
  case jpV0 nnn => cases h; rfl
  case call nnn =>
    obtain ⟨-, e⟩ | ⟨_, e⟩ | ⟨-, e⟩ := execCall_cases nnn s <;> cases e.symm.trans h
    · simp at hf
    · rfl
  case ret =>
    obtain ⟨-, e⟩ | ⟨_, e⟩ | ⟨-, e⟩ := execRet_cases s <;> cases e.symm.trans h
    · simp at hf
    · simp [xferTarget, State.stackTop, show s.sp.toNat - 1 < 16 by omega]

/-- The WAIT instruction does not write PC (R126, R283). -/
theorem pc_of_wait {i : Instr} {s t : State} (hc : pcClass i = .wait) (h : exec i s = .next t) : t.pc = s.pc := by
  cases i <;> cases hc
  cases h; rfl

end Sys2Proof.Machine
end

section
/-! SUPPORT. The statements on STEP and the program counter, settled. -/

namespace Sys2Proof.Machine

/-- Settles O6: the fetch answers INVALID_OPCODE, and a halt writes EXEC alone. -/
theorem unrecognisedWordHaltsBeforeExecution : Obligations.UnrecognisedWordHaltsBeforeExecution := by
  intro s hr hpc hw
  have hf : s.fetch = .error .invalidOpcode := (fetch_error_iff s _).2 (.inr ⟨hpc, hw, rfl⟩)
  exact ⟨_, step_of_fetch_error hr hf, rfl, rfl, frameExcept_execState s _⟩

/-- Settles O8, class by class. -/
theorem pcFollowsItsClass : Obligations.PcFollowsItsClass := by
  intro i s t _ h hf
  split
  next hc =>
    obtain ⟨u, hu, hpc⟩ := exec_of_seq hc s
    cases hu.symm.trans h
    simp [hpc]
  next hc =>
    obtain hh | ⟨c, hs, hh⟩ := exec_of_skip hc s <;> cases hh.symm.trans h
    · simp at hf
    · rw [← hs]; cases c <;> simp
  next hc => simp [pc_of_xfer hc h hf]
  next hc => exact pc_of_wait hc h

end Sys2Proof.Machine
end

section
/-! SUPPORT. The conditional skips on registers and immediates (spec 42_skips.md R160 to R163): the words of their
families, and what the SKIP advance does. -/

namespace Sys2Proof

/-! ### The words of families 3, 4, 5 and 9 (R96) -/

/-- Every word of family 3 is SE Vx, nn. -/
theorem decode_family3 (x : RegIx) (nn : Byte) : decode (formatXNN 0x3 x nn) = .instr (.seImm x nn) := by
  simp [decode, fieldOp_formatXNN, fieldX_formatXNN, fieldNN_formatXNN]

/-- Every word of family 4 is SNE Vx, nn. -/
theorem decode_family4 (x : RegIx) (nn : Byte) : decode (formatXNN 0x4 x nn) = .instr (.sneImm x nn) := by
  simp [decode, fieldOp_formatXNN, fieldX_formatXNN, fieldNN_formatXNN]

/-- A word of family 5 is SE Vx, Vy when its low nibble is 0, and illegal otherwise. -/
theorem decode_family5 (x y : RegIx) (n : BitVec 4) :
    decode (formatXYN 0x5 x y n) = if n = 0 then .instr (.seReg x y) else .invalid (formatXYN 0x5 x y n) := by
  simp [decode, fieldOp_formatXYN, fieldX_formatXYN, fieldY_formatXYN, fieldN_formatXYN]

/-- A word of family 9 is SNE Vx, Vy when its low nibble is 0, and illegal otherwise. -/
theorem decode_family9 (x y : RegIx) (n : BitVec 4) :
    decode (formatXYN 0x9 x y n) = if n = 0 then .instr (.sneReg x y) else .invalid (formatXYN 0x9 x y n) := by
  simp [decode, fieldOp_formatXYN, fieldX_formatXYN, fieldY_formatXYN, fieldN_formatXYN]

end Sys2Proof

namespace Sys2Proof.Machine

/-! ### The SKIP advance -/

/-- A write of PC changes no other part of the state (R23). -/
theorem frameExcept_setPc (s : State) (a : Nat) : FrameExcept [.pc] s (s.setPc a) := by
  intro p hp
  cases p with
  | pc => exact absurd (List.mem_singleton_self _) hp
  | _ => simp [Part.same, State.keyPressed]

/-- An instruction that is the SKIP advance on a condition completes, moves PC by 4 or 2 mod 65536, and changes nothing
else (R126, R166). -/
theorem completes_of_exec_eq_skipIf {i : Instr} {s : State} {P : Prop} [Decidable P]
    (h : exec i s = .next (s.skipIf P)) :
    ∃ t, exec i s = .next t ∧ t.pc.toNat = (s.pc.toNat + if P then 4 else 2) % 65536 ∧ FrameExcept [.pc] s t :=
  ⟨_, h, by simp, frameExcept_setPc s _⟩

end Sys2Proof.Machine
end

section
/-! SUPPORT. The statements on the register and immediate skips, settled. -/

namespace Sys2Proof.Machine

/-- Settles O22: families 3 and 4 hold these words alone, and both instructions are the SKIP advance on their
comparison. -/
theorem immediateSkipsCompare : Obligations.ImmediateSkipsCompare := by
  intro x nn s
  have word3 := (congrArg decode (ofNat_formatXNN 0x3 x nn)).trans (decode_family3 x nn)
  have word4 := (congrArg decode (ofNat_formatXNN 0x4 x nn)).trans (decode_family4 x nn)
  exact ⟨⟨word3, completes_of_exec_eq_skipIf rfl⟩, word4, completes_of_exec_eq_skipIf rfl⟩

/-- Settles O23: the low nibble decides whether a word of families 5 and 9 is legal, and both instructions are the SKIP
advance on their comparison. -/
theorem registerSkipsCompare : Obligations.RegisterSkipsCompare := by
  intro x y s
  have word5 (n : BitVec 4) := (congrArg decode (ofNat_formatXYN 0x5 x y n)).trans (decode_family5 x y n)
  have word9 (n : BitVec 4) := (congrArg decode (ofNat_formatXYN 0x9 x y n)).trans (decode_family9 x y n)
  refine ⟨⟨word5 0, completes_of_exec_eq_skipIf rfl⟩, ⟨word9 0, completes_of_exec_eq_skipIf rfl⟩, fun n hn => ?_⟩
  exact ⟨⟨_, (word5 n).trans (if_neg hn)⟩, _, (word9 n).trans (if_neg hn)⟩

end Sys2Proof.Machine
end

section
/-! SUPPORT. The loads, the logic and the additions on registers (spec 43_alu.md R180 to R186, R193): the words of their
families, and what the write of Vx and the write of Vx with a flag do. -/

namespace Sys2Proof

/-! ### The words of families 6, 7 and 8 (R96) -/

/-- Every word of family 6 is LD Vx, nn. -/
theorem decode_family6 (x : RegIx) (nn : Byte) : decode (formatXNN 0x6 x nn) = .instr (.ldImm x nn) := by
  simp [decode, fieldOp_formatXNN, fieldX_formatXNN, fieldNN_formatXNN]

/-- Every word of family 7 is ADD Vx, nn. -/
theorem decode_family7 (x : RegIx) (nn : Byte) : decode (formatXNN 0x7 x nn) = .instr (.addImm x nn) := by
  simp [decode, fieldOp_formatXNN, fieldX_formatXNN, fieldNN_formatXNN]

/-- The rows of family 8: the low nibble and the instruction that it selects (R95, R97). -/
def family8Rows : List (BitVec 4 × (RegIx → RegIx → Instr)) :=
  [(0x0, .ldReg), (0x1, .or), (0x2, .and), (0x3, .xor), (0x4, .addReg), (0x5, .sub), (0x6, .shr), (0x7, .subn),
    (0xE, .shl)]

/-- A word of family 8 is the instruction of its row. -/
theorem decode_of_mem_family8Rows {n : BitVec 4} {f : RegIx → RegIx → Instr} (h : (n, f) ∈ family8Rows) (x y : RegIx) :
    decode (formatXYN 0x8 x y n) = .instr (f x y) := by
  have family : decode (formatXYN 0x8 x y n) = decodeFamily8 (formatXYN 0x8 x y n) := by
    simp [decode, fieldOp_formatXYN]
  simp only [family8Rows, List.mem_cons, Prod.mk.injEq, List.not_mem_nil, or_false] at h
  rw [family]
  rcases h with ⟨rfl, rfl⟩ | ⟨rfl, rfl⟩ | ⟨rfl, rfl⟩ | ⟨rfl, rfl⟩ | ⟨rfl, rfl⟩ | ⟨rfl, rfl⟩ | ⟨rfl, rfl⟩ | ⟨rfl, rfl⟩ |
    ⟨rfl, rfl⟩ <;>
  simp [decodeFamily8, fieldN_formatXYN, fieldX_formatXYN, fieldY_formatXYN]

/-- The word of a family 8 row as its fixed bits plus the shifted fields (R101). -/
theorem decode_ofNat_of_mem_family8Rows {n : BitVec 4} {f : RegIx → RegIx → Instr} (h : (n, f) ∈ family8Rows)
    (x y : RegIx) : decode (BitVec.ofNat 16 (0x8000 + n.toNat + x.val * 256 + y.val * 16)) = .instr (f x y) := by
  have hw : 0x8000 + n.toNat + x.val * 256 + y.val * 16 =
      (0x8 : BitVec 4).toNat * 4096 + x.val * 256 + y.val * 16 + n.toNat := by simp; omega
  rw [hw, ofNat_formatXYN, decode_of_mem_family8Rows h]

end Sys2Proof

namespace Sys2Proof.Machine

/-! ### The sum and the flag -/

/-- The sum of two bytes is exact mod 256 (R192). -/
@[simp] theorem addByte_toNat (a b : Byte) : (addByte a b).toNat = (a.toNat + b.toNat) % 256 := by
  simp [addByte]

/-- The carry as VF receives it (R186). -/
theorem flagByte_carryOf (a b : Byte) : flagByte (carryOf a b) = if 255 < a.toNat + b.toNat then 1 else 0 := by
  simp [flagByte, carryOf]

/-! ### The write of Vx -/

/-- A write of a register changes no other part of the state (R20). -/
theorem frameExcept_setReg (s : State) (x : RegIx) (b : Byte) : FrameExcept [.regs] s (s.setReg x b) := by
  intro p hp
  cases p with
  | regs => exact absurd (List.mem_singleton_self _) hp
  | _ => simp [Part.same, State.keyPressed]

/-- The advance after writes of registers changes the registers and PC alone. -/
theorem FrameExcept.advance {s t : State} (h : FrameExcept [.regs] s t) :
    FrameExcept [.regs, .pc] s t.advance :=
  (h.mono (by simp)).trans ((frameExcept_setPc t _).mono (by simp))

/-- An instruction that writes Vx and advances completes, and changes nothing else (R180 to R182). -/
theorem completes_of_exec_eq_setReg {i : Instr} {s : State} {x : RegIx} {b : Byte}
    (h : exec i s = .next (s.setReg x b).advance) :
    ∃ t, exec i s = .next t ∧ t.reg x = b ∧ RegsExcept [x] s t ∧ t.pc.toNat = (s.pc.toNat + 2) % 65536 ∧
      FrameExcept [.regs, .pc] s t := by
  refine ⟨_, h, by simp, fun y hy => ?_, by simp, (frameExcept_setReg s x b).advance⟩
  have hxy : x ≠ y := fun e => hy (by simp [e])
  simp [hxy]

/-- An instruction that writes Vx, then VF, and advances completes, and changes nothing else; the flag is what VF keeps
when x = F (R193). -/
theorem completes_of_exec_eq_writeWithFlag {i : Instr} {s : State} {x : RegIx} {b : Byte} {c : Bool}
    (h : exec i s = .next (s.writeWithFlag x b c)) :
    ∃ t, exec i s = .next t ∧ (x ≠ 15 → t.reg x = b) ∧ t.reg 15 = flagByte c ∧ RegsExcept [x, 15] s t ∧
      t.pc.toNat = (s.pc.toNat + 2) % 65536 ∧ FrameExcept [.regs, .pc] s t := by
  refine ⟨_, h, fun hx => ?_, by simp [vf], fun y hy => ?_, by simp, ?_⟩
  · simp [vf, hx.symm]
  · obtain ⟨hyx, hyf⟩ : y ≠ x ∧ y ≠ 15 := by simpa using hy
    simp [vf, hyx.symm, hyf.symm]
  · exact ((frameExcept_setReg s x b).trans (frameExcept_setReg _ vf _)).advance

end Sys2Proof.Machine
end

section
/-! SUPPORT. The statements on the loads, the logic and the additions, settled. -/

namespace Sys2Proof.Machine

/-- Settles O14: every word of family 6 is this instruction, and it is the write of Vx. -/
theorem loadImmediateStoresByte : Obligations.LoadImmediateStoresByte := by
  intro x nn s
  exact ⟨(congrArg decode (ofNat_formatXNN 0x6 x nn)).trans (decode_family6 x nn), completes_of_exec_eq_setReg rfl⟩

/-- Settles O15: every word of family 7 is this instruction, and it is the write of Vx with the sum. -/
theorem addImmediateDiscardsCarry : Obligations.AddImmediateDiscardsCarry := by
  intro x nn s
  obtain ⟨t, ht, hx, frame⟩ := completes_of_exec_eq_setReg (i := .addImm x nn) (s := s) rfl
  refine ⟨(congrArg decode (ofNat_formatXNN 0x7 x nn)).trans (decode_family7 x nn), t, ht, ?_, frame⟩
  rw [hx, addByte_toNat]

/-- Settles O16: row 0 of family 8, and the write of Vx with Vy. -/
theorem loadRegisterCopies : Obligations.LoadRegisterCopies := by
  intro x y s
  exact ⟨decode_ofNat_of_mem_family8Rows (n := 0x0) (by simp [family8Rows]) x y, completes_of_exec_eq_setReg rfl⟩

/-- Settles O17: rows 1 to 3 of family 8, each the write of Vx with a flag that is always clear. -/
theorem logicOpsClearVf : Obligations.LogicOpsClearVf := by
  intro x y s
  have word {n : BitVec 4} {f : RegIx → RegIx → Instr} (h : (n, f) ∈ family8Rows) :=
    decode_ofNat_of_mem_family8Rows h x y
  exact ⟨⟨word (n := 0x1) (by simp [family8Rows]), completes_of_exec_eq_writeWithFlag (c := false) rfl⟩,
    ⟨word (n := 0x2) (by simp [family8Rows]), completes_of_exec_eq_writeWithFlag (c := false) rfl⟩,
    word (n := 0x3) (by simp [family8Rows]), completes_of_exec_eq_writeWithFlag (c := false) rfl⟩

/-- Settles O18: row 4 of family 8, and the write of Vx and the carry of the old registers. -/
theorem addRegisterSetsCarry : Obligations.AddRegisterSetsCarry := by
  intro x y s
  obtain ⟨t, ht, hx, hf, frame⟩ := completes_of_exec_eq_writeWithFlag (i := .addReg x y) (s := s) rfl
  refine ⟨decode_ofNat_of_mem_family8Rows (n := 0x4) (by simp [family8Rows]) x y, t, ht, fun h => ?_, ?_, frame⟩
  · rw [hx h, addByte_toNat]
  · rw [hf, flagByte_carryOf]

end Sys2Proof.Machine
end

section
/-! SUPPORT. The index register and the load from memory (spec 44_index_memory.md R220 to R222, R225, R226): the words
of families A and F, and what the write of I and the load of V0 to Vx do. -/

namespace Sys2Proof

/-! ### The words of families A and F (R96) -/

/-- Every word of family A is LD I, nnn. -/
theorem decode_familyA (nnn : Addr) : decode (formatA 0xA nnn) = .instr (.ldI nnn) := by
  simp [decode, fieldOp_formatA, fieldNNN_formatA]

/-- The rows of family F: the low byte and the instruction that it selects (R95, R97). -/
def familyFRows : List (Byte × (RegIx → Instr)) :=
  [(0x07, .ldVxDt), (0x0A, .ldVxK), (0x15, .ldDtVx), (0x18, .ldStVx), (0x1E, .addIVx), (0x29, .ldFVx), (0x33, .ldBVx),
    (0x55, .ldMIVx), (0x65, .ldVxMI)]

/-- A word of family F is the instruction of its row. -/
theorem decode_of_mem_familyFRows {nn : Byte} {f : RegIx → Instr} (h : (nn, f) ∈ familyFRows) (x : RegIx) :
    decode (formatXNN 0xF x nn) = .instr (f x) := by
  have family : decode (formatXNN 0xF x nn) = decodeFamilyF (formatXNN 0xF x nn) := by
    simp [decode, fieldOp_formatXNN]
  have rows : ∀ r ∈ familyFRows, decodeFamilyF (formatXNN 0xF x r.1) = .instr (r.2 x) := by
    simp [familyFRows, decodeFamilyF, fieldNN_formatXNN, fieldX_formatXNN]
  exact family.trans (rows (nn, f) h)

/-- The word of a family F row as its fixed bits plus the shifted register number (R101). -/
theorem decode_ofNat_of_mem_familyFRows {nn : Byte} {f : RegIx → Instr} (h : (nn, f) ∈ familyFRows) (x : RegIx) :
    decode (BitVec.ofNat 16 (0xF000 + nn.toNat + x.val * 256)) = .instr (f x) := by
  have hw : 0xF000 + nn.toNat + x.val * 256 = (0xF : BitVec 4).toNat * 4096 + x.val * 256 + nn.toNat := by simp; omega
  rw [hw, ofNat_formatXNN, decode_of_mem_familyFRows h]

end Sys2Proof

namespace Sys2Proof.Machine

/-! ### Addresses -/

/-- The effective address is I plus the offset, reduced mod 4096 (R64, R226). -/
theorem indexAddr_eq_ofNat_mod (s : State) (k : Nat) : s.indexAddr k = BitVec.ofNat 12 ((s.i.toNat + k) % 4096) := by
  apply BitVec.eq_of_toNat_eq; simp [State.indexAddr]

/-- The address of a glyph never wraps: the largest is 5 · 255 (R222). -/
theorem glyphAddress_eq (b : Byte) : glyphAddress b = 5 * b.toNat := by
  rw [glyphAddress]; omega

/-! ### The write of I and the load of V0 to Vx -/

/-- I after a write, as a number: the value mod 4096 (R22). -/
theorem State.setI_i_toNat (s : State) (a : Nat) : (s.setI a).i.toNat = a % 4096 := by
  rw [State.setI_i, BitVec.toNat_ofNat]; omega

/-- A write of I changes no other part of the state (R22). -/
theorem frameExcept_setI (s : State) (a : Nat) : FrameExcept [.index] s (s.setI a) := by
  intro p hp
  cases p with
  | index => exact absurd (List.mem_singleton_self _) hp
  | _ => simp [Part.same, State.keyPressed]

/-- A load of registers changes no other part of the state (R225). -/
theorem frameExcept_loadRegs (s : State) (x : RegIx) (b : Nat → Byte) : FrameExcept [.regs] s (s.loadRegs x b) := by
  intro p hp
  cases p with
  | regs => exact absurd (List.mem_singleton_self _) hp
  | _ => simp [Part.same, State.keyPressed]

/-- A write of I and the advance after writes of other parts change I and PC beside those parts. -/
theorem FrameExcept.setI_advance {parts : List Part} {s t : State} (h : FrameExcept parts s t) (a : Nat) :
    FrameExcept (parts ++ [.index, .pc]) s (t.setI a).advance :=
  ((h.mono (by simp)).trans ((frameExcept_setI t a).mono (by simp))).trans ((frameExcept_setPc _ _).mono (by simp))

/-- An instruction that writes I and advances completes, leaves in I the value mod 4096, and changes nothing else (R220
to R222). -/
theorem completes_of_exec_eq_setI {i : Instr} {s : State} {a : Nat} (h : exec i s = .next (s.setI a).advance) :
    ∃ t, exec i s = .next t ∧ t.i.toNat = a % 4096 ∧ t.pc.toNat = (s.pc.toNat + 2) % 65536 ∧
      FrameExcept [.index, .pc] s t :=
  ⟨_, h, s.setI_i_toNat a, by simp, (frameExcept_refl s []).setI_advance a⟩

end Sys2Proof.Machine
end

section
/-! SUPPORT. The statements on the index register and the load from memory, settled. -/

namespace Sys2Proof.Machine

/-- Settles O31: every word of family A is this instruction, and it is the write of I with a 12-bit value. -/
theorem loadIndexStoresAddress : Obligations.LoadIndexStoresAddress := by
  intro nnn s
  obtain ⟨t, ht, hi, frame⟩ := completes_of_exec_eq_setI (i := .ldI nnn) (s := s) rfl
  refine ⟨(congrArg decode (ofNat_formatA 0xA nnn)).trans (decode_familyA nnn), t, ht, ?_, frame⟩
  rw [hi, Nat.mod_eq_of_lt nnn.isLt]

/-- Settles O32: row 1E of family F, and the write of I with the sum. -/
theorem addIndexWrapsWithoutFlag : Obligations.AddIndexWrapsWithoutFlag := by
  intro x s
  exact ⟨decode_ofNat_of_mem_familyFRows (nn := 0x1E) (by simp [familyFRows]) x, completes_of_exec_eq_setI rfl⟩

/-- Settles O33: row 29 of family F, and the write of I with the glyph's address, which is below 4096 for every byte. -/
theorem fontAddressIsFiveTimesVx : Obligations.FontAddressIsFiveTimesVx := by
  intro x s
  obtain ⟨t, ht, hi, frame⟩ := completes_of_exec_eq_setI (i := .ldFVx x) (s := s) rfl
  rw [glyphAddress_eq] at hi
  have noWrap : t.i.toNat = 5 * (s.reg x).toNat := by omega
  exact ⟨decode_ofNat_of_mem_familyFRows (nn := 0x29) (by simp [familyFRows]) x, t, ht, hi, noWrap, by omega, frame⟩

/-- Settles O36: row 65 of family F, and the load of V0 to Vx from the old I before I and PC advance. -/
theorem registersAreLoadedFromI : Obligations.RegistersAreLoadedFromI := by
  intro x s
  refine ⟨decode_ofNat_of_mem_familyFRows (nn := 0x65) (by simp [familyFRows]) x, _, rfl, fun k hk => ?_,
    fun k hk => ?_, by rw [State.advance_i, State.setI_i_toNat], by simp,
    (frameExcept_loadRegs s x _).setI_advance _⟩
  · simp [hk, indexAddr_eq_ofNat_mod]
  · simp [not_le.2 hk]

end Sys2Proof.Machine
end

section
/-! SUPPORT. The clear of the screen (spec 45_display.md R250): what the write of the framebuffer leaves unchanged. -/

namespace Sys2Proof.Machine

/-- A write of the framebuffer changes no other part of the state (R30). -/
theorem frameExcept_setFb (s : State) (fb : FrameBuffer) : FrameExcept [.fb] s (s.setFb fb) := by
  intro p hp
  cases p with
  | fb => exact absurd (List.mem_singleton_self _) hp
  | _ => simp [Part.same, State.keyPressed]

/-- Settles O38: CLS is the write of the clear framebuffer and the advance, and each changes its own part alone. -/
theorem clearUnsetsEveryPixel : Obligations.ClearUnsetsEveryPixel := by
  intro s
  have frame : FrameExcept [.fb, .pc] s (s.setFb FrameBuffer.clear).advance :=
    ((frameExcept_setFb s _).mono (by simp)).trans ((frameExcept_setPc _ _).mono (by simp))
  exact ⟨by decide, _, rfl, by simp, by simp, frame⟩

end Sys2Proof.Machine
end

section
/-! SUPPORT. The timers (spec 46_timers_keys.md R280, R282): what the write of ST leaves unchanged, and how long the tone
lasts; then the statements on the read of DT and the write of ST, settled. -/

namespace Sys2Proof.Machine

/-! ### The write of ST and the tone -/

/-- A write of ST changes no other part of the state (R27). -/
theorem frameExcept_setSt (s : State) (b : Byte) : FrameExcept [.st] s (s.setSt b) := by
  intro p hp
  cases p with
  | st => exact absurd (List.mem_singleton_self _) hp
  | _ => simp [Part.same, State.keyPressed]

/-- TONE is on exactly while ST is not 0 (R313, D14). -/
theorem tone_eq_true_iff (s : State) : s.tone = true ↔ s.st ≠ 0 := by
  simp [State.tone]

/-- A gated tick leaves the tone on exactly when ST was above 1 (R312). -/
theorem tone_hostTimerPoll_true_iff (now : Nat) (s : State) :
    (hostTimerPoll true now s).tone = true ↔ 1 < s.st.toNat := by
  rw [tone_eq_true_iff, hostTimerPoll_true, ne_eq, ← BitVec.toNat_inj, countDown_toNat, BitVec.ofNat_eq_ofNat,
    BitVec.toNat_zero]
  omega

/-! ### The obligations -/

/-- Settles O42: row 07 of family F, and the write of Vx with DT. -/
theorem readDelayTimer : Obligations.ReadDelayTimer := by
  intro x s
  exact ⟨decode_ofNat_of_mem_familyFRows (nn := 0x07) (by simp [familyFRows]) x, completes_of_exec_eq_setReg rfl⟩

/-- Settles O44: row 18 of family F, and the write of ST, after which one gated tick ends the tone of a Vx of 1. -/
theorem setSoundTimerDrivesTone : Obligations.SetSoundTimerDrivesTone := by
  intro x s
  have frame : FrameExcept [.st, .pc] s (s.setSt (s.reg x)).advance :=
    ((frameExcept_setSt s _).mono (by simp)).trans ((frameExcept_setPc _ _).mono (by simp))
  refine ⟨decode_ofNat_of_mem_familyFRows (nn := 0x18) (by simp [familyFRows]) x, _, rfl, by simp,
    tone_eq_true_iff _, fun h now => ⟨?_, ?_⟩, by simp, frame⟩
  · rw [hostTimerPoll_false, tone_eq_true_iff]; simp [h]
  · rw [← Bool.not_eq_true, tone_hostTimerPoll_true_iff]; simp [h]

end Sys2Proof.Machine
end

section
/-! SUPPORT. SET_KEYS and the end of the key wait (spec 60_exceptions.md R314, 46_timers_keys.md R284): what the write of
the key states leaves unchanged, and which operations keep EXEC outside RUNNING; then the statement on SET_KEYS,
settled. -/

namespace Sys2Proof.Machine

/-! ### The write of the key states -/

/-- SET_KEYS changes no part of the state but the key states (R29, R314). -/
theorem frameExcept_hostSetKeys (k : BitVec 16) (s : State) : FrameExcept [.key] s (hostSetKeys k s) := by
  intro p hp
  cases p with
  | key => exact absurd (List.mem_singleton_self _) hp
  | _ => simp [Part.same, hostSetKeys, State.reg]

/-! ### EXEC outside RUNNING -/

theorem State.isAwaiting_eq_true_iff (s : State) : s.isAwaiting = true ↔ ∃ x, s.execState = .awaitingKey x := by
  unfold State.isAwaiting
  split <;> simp [*]

/-- LOAD does not write EXEC, whether it stores the image or refuses it (R311). -/
@[simp] theorem hostLoad_execState (b : List Byte) (s : State) : (hostLoad b s).execState = s.execState := by
  obtain ⟨-, h, -⟩ | ⟨-, h, -⟩ := hostLoad_cases b s <;> simp [h]

/-- TIMER_POLL does not write EXEC, whether or not a period has elapsed (R312, D13). -/
@[simp] theorem hostTimerPoll_execState (e : Bool) (now : Nat) (s : State) :
    (hostTimerPoll e now s).execState = s.execState := by
  cases e <;> rfl

/-- KEY_RELEASE ends the key wait in RUNNING (R284). -/
theorem hostKeyRelease_execState_of_awaiting {s : State} {x : RegIx} (h : s.execState = .awaitingKey x) (k : KeyIx) :
    (hostKeyRelease k s).execState = .running := by
  obtain ⟨_, -, e⟩ | ⟨hn, -⟩ := hostKeyRelease_cases k s
  · rw [e]
  · exact absurd h (hn x)

/-- Outside RUNNING a STEP changes nothing (R125). -/
theorem eq_of_step_of_ne_running {s t : State} (hr : s.execState ≠ .running) (h : step s = .next t) : t = s := by
  obtain ⟨-, e⟩ | ⟨hr', -⟩ | ⟨hr', -⟩ := step_cases h
  · exact e
  · exact absurd hr' hr
  · exact absurd hr' hr

/-- Outside RUNNING every operation but KEY_RELEASE and RESET keeps EXEC (R125, R311, R312, R314). -/
theorem perform_keeps_execState_of_ne_running {p : Params} {op : Op} {s t : State} {r : Reply}
    (hr : s.execState ≠ .running) (hk : ∀ k, op ≠ .keyRelease k) (hn : ∀ now, op ≠ .reset now)
    (h : perform p op s = .next (t, r)) : t.execState = s.execState := by
  obtain ⟨now, e, -⟩ | ⟨b, -, rfl, -⟩ | ⟨-, hs, -⟩ | ⟨e, now, -, rfl, -⟩ | ⟨k, -, rfl, -⟩ | ⟨k, e, -⟩ :=
    perform_cases h
  · exact absurd e (hn now)
  · exact hostLoad_execState b s
  · rw [eq_of_step_of_ne_running hr hs]
  · exact hostTimerPoll_execState e now s
  · exact frameExcept_hostSetKeys k s .execState (by simp)
  · exact absurd e (hk k)

/-! ### The obligation -/

/-- Settles O49: SET_KEYS writes the key states alone, and of the operations from the key wait only KEY_RELEASE and RESET
write EXEC. -/
theorem setKeysWritesOnlyTheKeypad : Obligations.SetKeysWritesOnlyTheKeypad := by
  intro k s
  refine ⟨⟨hostSetKeys_keyPressed k s, frameExcept_hostSetKeys k s⟩, fun ha => ?_⟩
  obtain ⟨x, hx⟩ := s.isAwaiting_eq_true_iff.1 ha
  have hr : s.execState ≠ .running := by simp [hx]
  exact ⟨hostKeyRelease_execState_of_awaiting hx, fun _ _ _ _ hk hn h =>
    perform_keeps_execState_of_ne_running hr hk hn h⟩

end Sys2Proof.Machine
end

section
/-! SUPPORT. Decoding and encoding (spec 30_encoding.md R91 to R101): the words of the families not yet covered, and a
word as the format of its own fields. -/

namespace Sys2Proof

/-! ### The words of families 1, 2, B, C, D and E (R96) -/

/-- Every word of family 1 is JP nnn. -/
theorem decode_family1 (nnn : Addr) : decode (formatA 0x1 nnn) = .instr (.jp nnn) := by
  simp [decode, fieldOp_formatA, fieldNNN_formatA]

/-- Every word of family 2 is CALL nnn. -/
theorem decode_family2 (nnn : Addr) : decode (formatA 0x2 nnn) = .instr (.call nnn) := by
  simp [decode, fieldOp_formatA, fieldNNN_formatA]

/-- Every word of family B is JP V0, nnn. -/
theorem decode_familyB (nnn : Addr) : decode (formatA 0xB nnn) = .instr (.jpV0 nnn) := by
  simp [decode, fieldOp_formatA, fieldNNN_formatA]

/-- Every word of family C is RND Vx, nn. -/
theorem decode_familyC (x : RegIx) (nn : Byte) : decode (formatXNN 0xC x nn) = .instr (.rnd x nn) := by
  simp [decode, fieldOp_formatXNN, fieldX_formatXNN, fieldNN_formatXNN]

/-- Every word of family D is DRW Vx, Vy, n. -/
theorem decode_familyD (x y : RegIx) (n : BitVec 4) : decode (formatXYN 0xD x y n) = .instr (.drw x y n) := by
  simp [decode, fieldOp_formatXYN, fieldX_formatXYN, fieldY_formatXYN, fieldN_formatXYN]

/-- A word of format XK as its fixed bits plus the shifted register number (R101). -/
theorem ofNat_formatXK (op : BitVec 4) (nn : Byte) (x : RegIx) :
    BitVec.ofNat 16 (op.toNat * 4096 + nn.toNat + x.val * 256) = formatXNN op x nn := by
  rw [← ofNat_formatXNN]; congr 1; omega

/-- The word of family E with low byte 9E is SKP Vx. -/
theorem decode_skp (x : RegIx) : decode (formatXNN 0xE x 0x9E) = .instr (.skp x) := by
  simp [decode, decodeFamilyE, fieldOp_formatXNN, fieldX_formatXNN, fieldNN_formatXNN]

/-- The word of family E with low byte A1 is SKNP Vx. -/
theorem decode_sknp (x : RegIx) : decode (formatXNN 0xE x 0xA1) = .instr (.sknp x) := by
  simp [decode, decodeFamilyE, fieldOp_formatXNN, fieldX_formatXNN, fieldNN_formatXNN]

/-! ### A word as the format of its own fields (R91, R92) -/

/-- A word in format A: its family and its address field. -/
theorem formatA_fields {w : Word} {op : BitVec 4} (hop : (fieldOp w).toNat = op.toNat) :
    formatA op (fieldNNN w) = w := by
  apply BitVec.eq_of_toNat_eq
  rw [fieldOp_toNat] at hop
  rw [formatA_toNat, fieldNNN_toNat]; omega

/-- A word in formats XNN and XK: its family, its register field and its low byte. -/
theorem formatXNN_fields {w : Word} {op : BitVec 4} (hop : (fieldOp w).toNat = op.toNat) :
    formatXNN op (fieldX w) (fieldNN w) = w := by
  apply BitVec.eq_of_toNat_eq
  rw [fieldOp_toNat] at hop
  rw [formatXNN_toNat, fieldX_val, fieldNN_toNat]; omega

/-- The same with the low byte a subfamily. -/
theorem formatXNN_of_fields {w : Word} {op : BitVec 4} {nn : Byte} (hop : (fieldOp w).toNat = op.toNat)
    (hnn : fieldNN w = nn) : formatXNN op (fieldX w) nn = w :=
  hnn ▸ formatXNN_fields hop

/-- A word in formats XY and XYN: its family, its two register fields and its low nibble. -/
theorem formatXYN_fields {w : Word} {op n : BitVec 4} (hop : (fieldOp w).toNat = op.toNat)
    (hn : (fieldN w).toNat = n.toNat) : formatXYN op (fieldX w) (fieldY w) n = w := by
  apply BitVec.eq_of_toNat_eq
  rw [fieldOp_toNat] at hop
  rw [fieldN_toNat] at hn
  rw [formatXYN_toNat, fieldX_val, fieldY_val]; omega

/-! ### Encode after decode, family by family (R101) -/

/-- A word of family F that decodes to an instruction, by its low byte, is that instruction's encoding. -/
theorem encode_of_decodeFamilyF {w : Word} {i : Instr} (hop : (fieldOp w).toNat = (0xF : BitVec 4).toNat)
    (h : decodeFamilyF w = .instr i) : encode i = w := by
  unfold decodeFamilyF at h
  repeat' split at h
  all_goals cases h
  all_goals exact formatXNN_of_fields hop ‹_›

/-- The same for family E, selected by the low byte. -/
theorem encode_of_decodeFamilyE {w : Word} {i : Instr} (hop : (fieldOp w).toNat = (0xE : BitVec 4).toNat)
    (h : decodeFamilyE w = .instr i) : encode i = w := by
  unfold decodeFamilyE at h
  repeat' split at h
  all_goals cases h
  all_goals exact formatXNN_of_fields hop ‹_›

/-- The same for family 8, selected by the low nibble. -/
theorem encode_of_decodeFamily8 {w : Word} {i : Instr} (hop : (fieldOp w).toNat = (0x8 : BitVec 4).toNat)
    (h : decodeFamily8 w = .instr i) : encode i = w := by
  unfold decodeFamily8 at h
  split at h <;> cases h
  all_goals exact formatXYN_fields hop ‹_›

/-- The same for the two words of family 0. -/
theorem encode_of_decodeFamily0 {w : Word} {i : Instr} (h : decodeFamily0 w = .instr i) : encode i = w := by
  unfold decodeFamily0 at h
  repeat' split at h
  all_goals cases h
  all_goals exact Eq.symm ‹_›

/-- A word that decodes to an instruction is that instruction's encoding. -/
theorem encode_of_decode {w : Word} {i : Instr} (h : decode w = .instr i) : encode i = w := by
  have low : fieldN w = 0 → (fieldN w).toNat = (0 : BitVec 4).toNat := congrArg _
  unfold decode at h
  -- Case `h_k` is family k - 1, and `h_17` the numbers that no family has.
  split at h
  case h_1 => exact encode_of_decodeFamily0 h
  case h_6 | h_10 =>
    split at h <;> cases h
    exact formatXYN_fields ‹_› (low ‹_›)
  case h_9 => exact encode_of_decodeFamily8 ‹_› h
  case h_14 => cases h; exact formatXYN_fields ‹_› rfl
  case h_15 => exact encode_of_decodeFamilyE ‹_› h
  case h_16 => exact encode_of_decodeFamilyF ‹_› h
  case h_17 => cases h
  case h_2 | h_3 | h_11 | h_12 => cases h; exact formatA_fields ‹_›
  all_goals cases h; exact formatXNN_fields ‹_›

/-! ### The opcode map (R97) -/

/-- A word that matches a row of mask 0xF000 has the row's family. -/
theorem fieldOp_of_mask_family {w : Word} {op : BitVec 4} (h : w &&& 0xF000 = formatA op 0) :
    (fieldOp w).toNat = op.toNat := by
  have hop := congrArg fieldOp ((mask_family w).symm.trans h)
  rw [fieldOp_formatA, fieldOp_formatA] at hop
  exact congrArg _ hop

/-- A word that matches a row of mask 0xF00F is the format XY of the row's family and low nibble. -/
theorem formatXYN_of_mask {w : Word} {op n : BitVec 4} (h : w &&& 0xF00F = formatXYN op 0 0 n) :
    formatXYN op (fieldX w) (fieldY w) n = w := by
  have h' := (mask_family_n w).symm.trans h
  have hop := congrArg fieldOp h'
  have hn := congrArg fieldN h'
  rw [fieldOp_formatXYN, fieldOp_formatXYN] at hop
  rw [fieldN_formatXYN, fieldN_formatXYN] at hn
  exact formatXYN_fields (congrArg _ hop) (congrArg _ hn)

/-- A word that matches a row of mask 0xF0FF is the format XK of the row's family and low byte. -/
theorem formatXNN_of_mask {w : Word} {op : BitVec 4} {nn : Byte} (h : w &&& 0xF0FF = formatXNN op 0 nn) :
    formatXNN op (fieldX w) nn = w := by
  have h' := (mask_family_nn w).symm.trans h
  have hop := congrArg fieldOp h'
  have hnn := congrArg fieldNN h'
  rw [fieldOp_formatXNN, fieldOp_formatXNN] at hop
  rw [fieldNN_formatXNN, fieldNN_formatXNN] at hnn
  exact formatXNN_of_fields (congrArg _ hop) hnn

/-- The word is the encoding of some instruction with the given name. -/
def EncodesAs (name : String) (w : Word) : Prop := ∃ i, encode i = w ∧ i.mnemonic = name

/-- A word of full mask is its pattern. -/
theorem eq_of_mask_full {w p : Word} (h : w &&& 0xFFFF = p) : p = w :=
  h.symm.trans (BitVec.and_allOnes)

/-- Rows 1 to 9: a matching word is an encoding. -/
theorem encodesAs_of_mem_low {r : OpRow} (hr : r ∈ opcodeMapLow) {w : Word} (h : w &&& r.mask = r.pattern) :
    EncodesAs r.mnemonic w := by
  simp only [opcodeMapLow, List.mem_cons, List.not_mem_nil, or_false] at hr
  rcases hr with rfl | rfl | rfl | rfl | rfl | rfl | rfl | rfl | rfl
  · exact ⟨.cls, eq_of_mask_full h, rfl⟩
  · exact ⟨.ret, eq_of_mask_full h, rfl⟩
  · exact ⟨.jp _, formatA_fields (fieldOp_of_mask_family (op := 0x1) h), rfl⟩
  · exact ⟨.call _, formatA_fields (fieldOp_of_mask_family (op := 0x2) h), rfl⟩
  · exact ⟨.seImm _ _, formatXNN_fields (fieldOp_of_mask_family (op := 0x3) h), rfl⟩
  · exact ⟨.sneImm _ _, formatXNN_fields (fieldOp_of_mask_family (op := 0x4) h), rfl⟩
  · exact ⟨.seReg _ _, formatXYN_of_mask (op := 0x5) (n := 0x0) h, rfl⟩
  · exact ⟨.ldImm _ _, formatXNN_fields (fieldOp_of_mask_family (op := 0x6) h), rfl⟩
  · exact ⟨.addImm _ _, formatXNN_fields (fieldOp_of_mask_family (op := 0x7) h), rfl⟩

/-- Rows 10 to 18: a matching word is an encoding. -/
theorem encodesAs_of_mem_alu {r : OpRow} (hr : r ∈ opcodeMapAlu) {w : Word} (h : w &&& r.mask = r.pattern) :
    EncodesAs r.mnemonic w := by
  simp only [opcodeMapAlu, List.mem_cons, List.not_mem_nil, or_false] at hr
  rcases hr with rfl | rfl | rfl | rfl | rfl | rfl | rfl | rfl | rfl
  · exact ⟨.ldReg _ _, formatXYN_of_mask (op := 0x8) (n := 0x0) h, rfl⟩
  · exact ⟨.or _ _, formatXYN_of_mask (op := 0x8) (n := 0x1) h, rfl⟩
  · exact ⟨.and _ _, formatXYN_of_mask (op := 0x8) (n := 0x2) h, rfl⟩
  · exact ⟨.xor _ _, formatXYN_of_mask (op := 0x8) (n := 0x3) h, rfl⟩
  · exact ⟨.addReg _ _, formatXYN_of_mask (op := 0x8) (n := 0x4) h, rfl⟩
  · exact ⟨.sub _ _, formatXYN_of_mask (op := 0x8) (n := 0x5) h, rfl⟩
  · exact ⟨.shr _ _, formatXYN_of_mask (op := 0x8) (n := 0x6) h, rfl⟩
  · exact ⟨.subn _ _, formatXYN_of_mask (op := 0x8) (n := 0x7) h, rfl⟩
  · exact ⟨.shl _ _, formatXYN_of_mask (op := 0x8) (n := 0xE) h, rfl⟩

/-- Rows 19 to 25: a matching word is an encoding. -/
theorem encodesAs_of_mem_high {r : OpRow} (hr : r ∈ opcodeMapHigh) {w : Word} (h : w &&& r.mask = r.pattern) :
    EncodesAs r.mnemonic w := by
  simp only [opcodeMapHigh, List.mem_cons, List.not_mem_nil, or_false] at hr
  rcases hr with rfl | rfl | rfl | rfl | rfl | rfl | rfl
  · exact ⟨.sneReg _ _, formatXYN_of_mask (op := 0x9) (n := 0x0) h, rfl⟩
  · exact ⟨.ldI _, formatA_fields (fieldOp_of_mask_family (op := 0xA) h), rfl⟩
  · exact ⟨.jpV0 _, formatA_fields (fieldOp_of_mask_family (op := 0xB) h), rfl⟩
  · exact ⟨.rnd _ _, formatXNN_fields (fieldOp_of_mask_family (op := 0xC) h), rfl⟩
  · exact ⟨.drw _ _ _, formatXYN_fields (fieldOp_of_mask_family (op := 0xD) h) rfl, rfl⟩
  · exact ⟨.skp _, formatXNN_of_mask (op := 0xE) (nn := 0x9E) h, rfl⟩
  · exact ⟨.sknp _, formatXNN_of_mask (op := 0xE) (nn := 0xA1) h, rfl⟩

/-- Rows 26 to 34: a matching word is an encoding. -/
theorem encodesAs_of_mem_F {r : OpRow} (hr : r ∈ opcodeMapF) {w : Word} (h : w &&& r.mask = r.pattern) :
    EncodesAs r.mnemonic w := by
  simp only [opcodeMapF, List.mem_cons, List.not_mem_nil, or_false] at hr
  rcases hr with rfl | rfl | rfl | rfl | rfl | rfl | rfl | rfl | rfl
  · exact ⟨.ldVxDt _, formatXNN_of_mask (op := 0xF) (nn := 0x07) h, rfl⟩
  · exact ⟨.ldVxK _, formatXNN_of_mask (op := 0xF) (nn := 0x0A) h, rfl⟩
  · exact ⟨.ldDtVx _, formatXNN_of_mask (op := 0xF) (nn := 0x15) h, rfl⟩
  · exact ⟨.ldStVx _, formatXNN_of_mask (op := 0xF) (nn := 0x18) h, rfl⟩
  · exact ⟨.addIVx _, formatXNN_of_mask (op := 0xF) (nn := 0x1E) h, rfl⟩
  · exact ⟨.ldFVx _, formatXNN_of_mask (op := 0xF) (nn := 0x29) h, rfl⟩
  · exact ⟨.ldBVx _, formatXNN_of_mask (op := 0xF) (nn := 0x33) h, rfl⟩
  · exact ⟨.ldMIVx _, formatXNN_of_mask (op := 0xF) (nn := 0x55) h, rfl⟩
  · exact ⟨.ldVxMI _, formatXNN_of_mask (op := 0xF) (nn := 0x65) h, rfl⟩

/-- A word that matches a row is the encoding of an instruction with the row's name. -/
theorem encodesAs_of_mem_opcodeMap {r : OpRow} (hr : r ∈ opcodeMap) {w : Word} (h : w &&& r.mask = r.pattern) :
    EncodesAs r.mnemonic w := by
  simp only [opcodeMap, List.mem_append, or_assoc] at hr
  rcases hr with hr | hr | hr | hr
  · exact encodesAs_of_mem_low hr h
  · exact encodesAs_of_mem_alu hr h
  · exact encodesAs_of_mem_high hr h
  · exact encodesAs_of_mem_F hr h

/-- No two rows of the opcode map have the same name. -/
theorem eq_of_mnemonic_eq {r q : OpRow} (hr : r ∈ opcodeMap) (hq : q ∈ opcodeMap) (h : r.mnemonic = q.mnemonic) :
    r = q :=
  List.inj_on_of_nodup_map (f := OpRow.mnemonic) (by decide) hr hq h

/-- The encoding of an instruction matches the row of its name, constructor by constructor. -/
theorem rowMatch : ∀ i : Instr, Laws.RowMatch.Statement i
  | .cls => Laws.RowMatch.cls
  | .ret => Laws.RowMatch.ret
  | .jp nnn => Laws.RowMatch.jp nnn
  | .call nnn => Laws.RowMatch.call nnn
  | .seImm x nn => Laws.RowMatch.seImm x nn
  | .sneImm x nn => Laws.RowMatch.sneImm x nn
  | .seReg x y => Laws.RowMatch.seReg x y
  | .ldImm x nn => Laws.RowMatch.ldImm x nn
  | .addImm x nn => Laws.RowMatch.addImm x nn
  | .ldReg x y => Laws.RowMatch.ldReg x y
  | .or x y => Laws.RowMatch.or x y
  | .and x y => Laws.RowMatch.and x y
  | .xor x y => Laws.RowMatch.xor x y
  | .addReg x y => Laws.RowMatch.addReg x y
  | .sub x y => Laws.RowMatch.sub x y
  | .shr x y => Laws.RowMatch.shr x y
  | .subn x y => Laws.RowMatch.subn x y
  | .shl x y => Laws.RowMatch.shl x y
  | .sneReg x y => Laws.RowMatch.sneReg x y
  | .ldI nnn => Laws.RowMatch.ldI nnn
  | .jpV0 nnn => Laws.RowMatch.jpV0 nnn
  | .rnd x nn => Laws.RowMatch.rnd x nn
  | .drw x y n => Laws.RowMatch.drw x y n
  | .skp x => Laws.RowMatch.skp x
  | .sknp x => Laws.RowMatch.sknp x
  | .ldVxDt x => Laws.RowMatch.ldVxDt x
  | .ldVxK x => Laws.RowMatch.ldVxK x
  | .ldDtVx x => Laws.RowMatch.ldDtVx x
  | .ldStVx x => Laws.RowMatch.ldStVx x
  | .addIVx x => Laws.RowMatch.addIVx x
  | .ldFVx x => Laws.RowMatch.ldFVx x
  | .ldBVx x => Laws.RowMatch.ldBVx x
  | .ldMIVx x => Laws.RowMatch.ldMIVx x
  | .ldVxMI x => Laws.RowMatch.ldVxMI x

end Sys2Proof
end

section
/-! SUPPORT. The statements on decoding and encoding, settled. -/

namespace Sys2Proof

/-- Settles O1: each instruction's word is one of the words of its family. -/
theorem decodeOfEncodeIsInstruction : Obligations.DecodeOfEncodeIsInstruction := by
  have row8 {n : BitVec 4} {f : RegIx → RegIx → Instr} (h : (n, f) ∈ family8Rows) := decode_of_mem_family8Rows h
  have rowF {nn : Byte} {f : RegIx → Instr} (h : (nn, f) ∈ familyFRows) := decode_of_mem_familyFRows h
  intro i
  cases i
  case cls | ret => rfl
  case jp nnn => exact decode_family1 nnn
  case call nnn => exact decode_family2 nnn
  case seImm x nn => exact decode_family3 x nn
  case sneImm x nn => exact decode_family4 x nn
  case seReg x y => exact decode_family5 x y 0
  case ldImm x nn => exact decode_family6 x nn
  case addImm x nn => exact decode_family7 x nn
  case sneReg x y => exact decode_family9 x y 0
  case ldI nnn => exact decode_familyA nnn
  case jpV0 nnn => exact decode_familyB nnn
  case rnd x nn => exact decode_familyC x nn
  case drw x y n => exact decode_familyD x y n
  case skp x => exact decode_skp x
  case sknp x => exact decode_sknp x
  case ldReg x y | or x y | and x y | xor x y | addReg x y | sub x y | shr x y | subn x y | shl x y =>
    exact row8 (by simp [family8Rows]) x y
  all_goals exact rowF (by simp [familyFRows]) _

/-- Settles O3: a matching word is the encoding of an instruction of the row's name, which decodes to itself; and the word
that an instruction encodes to matches the row of its name, which no other row bears. -/
theorem decodeFollowsOpcodeMap : Obligations.DecodeFollowsOpcodeMap := by
  have matching : ∀ w : Word, ∀ r ∈ opcodeMap, w &&& r.mask = r.pattern →
      ∃ i, decode w = .instr i ∧ i.mnemonic = r.mnemonic := by
    intro w r hr h
    obtain ⟨i, rfl, hm⟩ := encodesAs_of_mem_opcodeMap hr h
    exact ⟨i, decodeOfEncodeIsInstruction i, hm⟩
  refine ⟨fun w r hr => ⟨?_, matching w r hr⟩, fun w r hr q hq hrw hqw => ?_⟩
  · rintro ⟨i, hi, hm⟩
    obtain ⟨q, hq, hqm, hqw⟩ := rowMatch i
    obtain rfl := eq_of_mnemonic_eq hq hr (hqm.trans hm)
    rw [encode_of_decode hi] at hqw
    exact eq_of_beq hqw
  · obtain ⟨i, hi, hri⟩ := matching w r hr (eq_of_beq hrw)
    obtain ⟨j, hj, hqj⟩ := matching w q hq (eq_of_beq hqw)
    obtain rfl : i = j := by injection hi.symm.trans hj
    exact eq_of_mnemonic_eq hr hq (hri.symm.trans hqj)

/-- Settles O2: the encoder puts back the fields that the decoder took; and a legal word matches a row, whose instruction it
decodes to. -/
theorem encodeOfDecodeIsWord : Obligations.EncodeOfDecodeIsWord := by
  refine fun w => ⟨fun i => encode_of_decode, fun hw => ?_⟩
  obtain ⟨r, hr, hm⟩ := List.any_eq_true.1 hw
  obtain ⟨i, hi, -⟩ := (decodeFollowsOpcodeMap.1 w r hr).2 (eq_of_beq hm)
  exact ⟨i, hi⟩

/-- Settles O4, word by word on the literal words. -/
theorem sampleWordsDecodeAsTabled : Obligations.SampleWordsDecodeAsTabled := by
  unfold Obligations.SampleWordsDecodeAsTabled
  decide

end Sys2Proof
end

section
/-! SUPPORT. What an instruction can do, said once (spec 10_state.md R37, 60_exceptions.md R302, R303): it halts for one of
the causes of R301, or it changes the parts that the access summary names for it. -/

namespace Sys2Proof.Machine

/-! ### Frames of the state operations -/

/-- Frames of successive changes compose, and the parts that they name add up. -/
theorem FrameExcept.append {ps qs : List Part} {s t u : State} (h₁ : FrameExcept ps s t) (h₂ : FrameExcept qs t u) :
    FrameExcept (ps ++ qs) s u :=
  (h₁.mono (List.subset_append_left _ _)).trans (h₂.mono (List.subset_append_right _ _))

/-- A store changes no part of the state but memory (R64). -/
theorem frameExcept_store (s : State) (a : Addr) (bs : List Byte) : FrameExcept [.mem] s (s.store a bs) := by
  intro p hp
  cases p with
  | mem => exact absurd (List.mem_singleton_self _) hp
  | _ => simp [Part.same, State.keyPressed]

/-- A write of DT changes no other part of the state (R26). -/
theorem frameExcept_setDt (s : State) (b : Byte) : FrameExcept [.dt] s (s.setDt b) := by
  intro p hp
  cases p with
  | dt => exact absurd (List.mem_singleton_self _) hp
  | _ => simp [Part.same, State.keyPressed]

/-- A draw changes only the count of draws (R315). -/
theorem frameExcept_countDraw (s : State) : FrameExcept [.draws] s s.countDraw := by
  intro p hp
  cases p with
  | draws => exact absurd (List.mem_singleton_self _) hp
  | _ => simp [Part.same, State.keyPressed]

/-- A push changes only the stack and SP (R142). -/
theorem frameExcept_push (s : State) (h : s.sp.toNat < 16) (a : Nat) : FrameExcept [.stack, .sp] s (s.push h a) := by
  intro p hp
  cases p with
  | stack | sp => simp at hp
  | _ => simp [Part.same, State.keyPressed]

/-- A pop changes only SP (R140). -/
theorem frameExcept_popSp (s : State) : FrameExcept [.sp] s s.popSp := by
  intro p hp
  cases p with
  | sp => exact absurd (List.mem_singleton_self _) hp
  | _ => simp [Part.same, State.keyPressed]

/-- The SEQ advance changes only PC (R126). -/
theorem frameExcept_advance (s : State) : FrameExcept [.pc] s s.advance := frameExcept_setPc s _

/-! ### The return stack -/

/-- SP after a push, as a number (R142). -/
theorem State.push_sp_toNat (s : State) (h : s.sp.toNat < 16) (a : Nat) : (s.push h a).sp.toNat = s.sp.toNat + 1 := by
  rw [State.push_sp, BitVec.toNat_ofNat]; omega

/-- The stack after a push: the new entry at the old SP, and the old entries elsewhere (R25, R142). -/
theorem State.push_stack_getElem (s : State) (h : s.sp.toNat < 16) (a : Nat) (k : Fin 16) :
    (s.push h a).stack[k] = if k.val = s.sp.toNat then BitVec.ofNat 16 a else s.stack[k] := by
  simp only [State.push_stack, Fin.getElem_fin, Vector.getElem_set, eq_comm]

/-- SP after a pop, as a number (R140). -/
theorem State.popSp_sp_toNat (s : State) : s.popSp.sp.toNat = s.sp.toNat - 1 := by
  rw [State.popSp_sp, BitVec.toNat_ofNat]; omega

/-! ### The causes of a halt -/

/-- The states in which an instruction halts, with its code: the causes of R301 that an instruction checks (R140, R142,
R164, R165). -/
inductive HaltCause (s : State) : Instr → HaltCode → Prop
  | overflow (nnn : Addr) (h : s.sp.toNat = 16) : HaltCause s (.call nnn) .stackOverflow
  | underflow (h : s.sp.toNat = 0) : HaltCause s .ret .stackUnderflow
  | skp (x : RegIx) (h : 15 < (s.reg x).toNat) : HaltCause s (.skp x) .keyIndexOutOfRange
  | sknp (x : RegIx) (h : 15 < (s.reg x).toNat) : HaltCause s (.sknp x) .keyIndexOutOfRange

/-- A key skip whose Vx names no key halts (D7). -/
theorem skipOnKey_of_out_of_range {x : RegIx} {s : State} (h : 15 < (s.reg x).toNat) (p : Bool) :
    skipOnKey x p s = s.raiseHalt .keyIndexOutOfRange := by
  obtain ⟨-, e⟩ | ⟨k, hk, -⟩ := skipOnKey_cases x p s
  · exact e
  · omega

/-- Each cause halts the instruction with its code. -/
theorem exec_of_haltCause {s : State} {i : Instr} {c : HaltCode} (h : HaltCause s i c) :
    exec i s = .next (s.raiseHalt c) := by
  cases h with
  | overflow nnn h => exact if_pos h
  | underflow h => exact if_pos h
  | skp x h => exact congrArg _ (skipOnKey_of_out_of_range h true)
  | sknp x h => exact congrArg _ (skipOnKey_of_out_of_range h false)

/-! ### What an instruction changes -/

/-- What Fx65 answers, with the loaded bytes left open (R225). -/
theorem eq_of_exec_ldVxMI {x : RegIx} {s t : State} (h : exec (.ldVxMI x) s = .next t) :
    ∃ b, t = ((s.loadRegs x b).setI (s.i.toNat + x.val + 1)).advance :=
  ⟨_, (Host.Outcome.next.inj h).symm⟩

/-- A SEQ instruction changes the parts that the access summary names for it (R37). -/
theorem frame_of_seq {i : Instr} (hc : pcClass i = .seq) {s t : State} (h : exec i s = .next t) :
    FrameExcept (writes i) s t := by
  cases i <;> cases hc
  case ldVxMI x => obtain ⟨b, rfl⟩ := eq_of_exec_ldVxMI h; exact (frameExcept_loadRegs s x b).setI_advance _
  all_goals cases h
  case cls => exact (frameExcept_setFb s _).append (frameExcept_advance _)
  case ldImm | addImm | ldReg | ldVxDt => exact (frameExcept_setReg s _ _).advance
  case or | and | xor | addReg | sub | shr | subn | shl =>
    exact ((frameExcept_setReg s _ _).trans (frameExcept_setReg _ vf _)).advance
  case ldI | addIVx | ldFVx => exact (frameExcept_refl s []).setI_advance _
  case rnd => exact ((frameExcept_setReg s _ _).append (frameExcept_countDraw _)).append (frameExcept_advance _)
  case drw => exact ((frameExcept_setFb s _).append (frameExcept_setReg _ vf _)).append (frameExcept_advance _)
  case ldDtVx => exact (frameExcept_setDt s _).append (frameExcept_advance _)
  case ldStVx => exact (frameExcept_setSt s _).append (frameExcept_advance _)
  case ldBVx => exact (frameExcept_store s _ _).append (frameExcept_advance _)
  case ldMIVx => exact (frameExcept_store s _ _).setI_advance _

/-- A key skip halts because Vx names no key, or changes only PC. -/
theorem skipOnKey_halts_or_frame (x : RegIx) (p : Bool) (s : State) :
    (15 < (s.reg x).toNat ∧ skipOnKey x p s = s.raiseHalt .keyIndexOutOfRange) ∨
      FrameExcept [.pc] s (skipOnKey x p s) := by
  obtain h | ⟨k, -, e⟩ := skipOnKey_cases x p s
  · exact .inl h
  · exact .inr (e ▸ frameExcept_setPc s _)

/-- Everything an instruction that answers a next state can do: halt for one of its causes, or change the parts that the
access summary names for it (R37, R302). -/
theorem exec_cases {i : Instr} {s t : State} (h : exec i s = .next t) :
    (∃ c, HaltCause s i c ∧ t = s.raiseHalt c) ∨ FrameExcept (writes i) s t := by
  cases i
  case jp | jpV0 | seImm | sneImm | seReg | sneReg => cases h; exact .inr (frameExcept_setPc s _)
  case ldVxK x => cases h; exact .inr (frameExcept_execState s _)
  case skp x =>
    cases h
    exact (skipOnKey_halts_or_frame x true s).imp_left fun ⟨hx, e⟩ => ⟨_, .skp x hx, e⟩
  case sknp x =>
    cases h
    exact (skipOnKey_halts_or_frame x false s).imp_left fun ⟨hx, e⟩ => ⟨_, .sknp x hx, e⟩
  case call nnn =>
    obtain ⟨hsp, e⟩ | ⟨hsp, e⟩ | ⟨-, e⟩ := execCall_cases nnn s <;> cases e.symm.trans h
    · exact .inl ⟨_, .overflow nnn hsp, rfl⟩
    · exact .inr ((frameExcept_push s hsp _).append (frameExcept_setPc _ _))
  case ret =>
    obtain ⟨hsp, e⟩ | ⟨hsp, e⟩ | ⟨-, e⟩ := execRet_cases s <;> cases e.symm.trans h
    · exact .inl ⟨_, .underflow hsp, rfl⟩
    · exact .inr ((frameExcept_popSp s).append (frameExcept_setPc _ _))
  all_goals exact .inr (frame_of_seq rfl h)

/-- Run in RUNNING, an instruction halts for one of its causes, or stays in RUNNING, or is the Fx0A that sets the key-wait
latch. -/
theorem exec_cases_of_running {i : Instr} {s t : State} (hr : s.execState = .running) (h : exec i s = .next t) :
    (∃ c, HaltCause s i c ∧ t = s.raiseHalt c) ∨ t.execState = .running ∨ ∃ x, i = .ldVxK x ∧ t = s.awaitKey x := by
  obtain hh | hf := exec_cases h
  · exact .inl hh
  · by_cases hw : .execState ∈ writes i
    · cases i <;> simp [writes] at hw
      cases h
      exact .inr (.inr ⟨_, rfl, rfl⟩)
    · exact .inr (.inl ((hf .execState hw).trans hr))

/-- Run in RUNNING, an instruction that ends in HALTED is a halt for one of its causes. -/
theorem haltCause_of_exec {i : Instr} {s t : State} {c : HaltCode} (hr : s.execState = .running)
    (h : exec i s = .next t) (ht : t.execState = .halted c) : HaltCause s i c ∧ t = s.raiseHalt c := by
  obtain ⟨d, hd, rfl⟩ | e | ⟨x, -, rfl⟩ := exec_cases_of_running hr h
  · cases ht; exact ⟨hd, rfl⟩
  · rw [ht] at e; cases e
  · cases ht

/-! ### What a STEP can do -/

/-- A STEP in RUNNING that fetches an instruction is that instruction (R122). -/
theorem step_of_fetch_instr {s : State} {i : Instr} (hr : s.execState = .running) (hf : s.fetch = .instr i) :
    step s = exec i s := by
  simp [step, hr, hf]

/-- Outside RUNNING a STEP answers the same state (R125). -/
theorem step_of_ne_running {s : State} (hr : s.execState ≠ .running) : step s = .next s := by
  unfold step
  split
  · rfl
  · rfl
  · exact absurd ‹_› hr

/-- A STEP from RUNNING that ends in HALTED is a failed fetch or an instruction's halt, and changes EXEC alone (R302). -/
theorem halt_of_step {s t : State} {c : HaltCode} (hr : s.execState = .running) (h : step s = .next t)
    (ht : t.execState = .halted c) :
    (s.fetch = .error c ∨ ∃ i, s.fetch = .instr i ∧ HaltCause s i c) ∧ t = s.raiseHalt c := by
  obtain ⟨hn, -⟩ | ⟨-, d, hd, rfl⟩ | ⟨-, i, hi, he⟩ := step_cases h
  · exact absurd hr hn
  · cases ht; exact ⟨.inl hd, rfl⟩
  · obtain ⟨hc, e⟩ := haltCause_of_exec hr he ht
    exact ⟨.inr ⟨i, hi, hc⟩, e⟩

/-- A STEP in RUNNING halts with a code exactly when the fetch fails with it, or the fetched instruction has a cause for it
(R301, R303). -/
theorem step_eq_raiseHalt_iff {s : State} (hr : s.execState = .running) (c : HaltCode) :
    step s = .next (s.raiseHalt c) ↔ s.fetch = .error c ∨ ∃ i, s.fetch = .instr i ∧ HaltCause s i c := by
  constructor
  · exact fun h => (halt_of_step hr h rfl).1
  · rintro (hf | ⟨i, hf, hc⟩)
    · exact step_of_fetch_error hr hf
    · exact (step_of_fetch_instr hr hf).trans (exec_of_haltCause hc)

/-- With SP at most 16 every instruction answers a next state: only CALL and RET have another outcome (R140, R142). -/
theorem exec_next {s : State} (hsp : s.sp.toNat ≤ 16) (i : Instr) : ∃ t, exec i s = .next t := by
  cases i
  case call nnn =>
    obtain ⟨-, e⟩ | ⟨_, e⟩ | ⟨h, -⟩ := execCall_cases nnn s
    · exact ⟨_, e⟩
    · exact ⟨_, e⟩
    · omega
  case ret =>
    obtain ⟨-, e⟩ | ⟨_, e⟩ | ⟨h, -⟩ := execRet_cases s
    · exact ⟨_, e⟩
    · exact ⟨_, e⟩
    · omega
  all_goals exact ⟨_, rfl⟩

/-- No instruction is refused. -/
theorem exec_ne_refused (i : Instr) (s : State) (r : Refusal) : exec i s ≠ .refused r := by
  intro h
  cases i
  case call nnn => obtain ⟨-, e⟩ | ⟨_, e⟩ | ⟨-, e⟩ := execCall_cases nnn s <;> cases e.symm.trans h
  case ret => obtain ⟨-, e⟩ | ⟨_, e⟩ | ⟨-, e⟩ := execRet_cases s <;> cases e.symm.trans h
  all_goals cases h

/-- With SP at most 16 every STEP answers a next state. -/
theorem step_next {s : State} (hsp : s.sp.toNat ≤ 16) : ∃ t, step s = .next t := by
  by_cases hr : s.execState = .running
  · cases hf : s.fetch with
    | error c => exact ⟨_, step_of_fetch_error hr hf⟩
    | instr i => exact step_of_fetch_instr hr hf ▸ exec_next hsp i
  · exact ⟨s, step_of_ne_running hr⟩

/-! ### Runs of STEPs -/

/-- A run of one STEP and then the rest. -/
theorem core_run_succ {s t : State} (h : step s = .next t) (k : Nat) :
    Sys2Proof.core.run (k + 1) s = Sys2Proof.core.run k t := by
  have hc : Sys2Proof.core.step s = .next t := h
  simp only [Host.Core.run, hc]

/-- A run of `m + n` STEPs is a run of `m` and then one of `n`. -/
theorem core_run_add {s t : State} {m : Nat} (h : Sys2Proof.core.run m s = .next t) (n : Nat) :
    Sys2Proof.core.run (m + n) s = Sys2Proof.core.run n t := by
  induction m generalizing s with
  | zero => cases h; rw [Nat.zero_add]
  | succ m ih =>
    cases hs : step s with
    | next u =>
      rw [core_run_succ hs] at h
      rw [Nat.succ_add, core_run_succ hs, ih h]
    | fault r =>
      have hc : Sys2Proof.core.step s = .fault r := hs
      simp [Host.Core.run, hc] at h
    | refused r =>
      have hc : Sys2Proof.core.step s = .refused r := hs
      simp [Host.Core.run, hc] at h

/-- A STEP that answers the same state repeats for ever. -/
theorem core_run_of_idle {s : State} (h : step s = .next s) (k : Nat) : Sys2Proof.core.run k s = .next s := by
  induction k with
  | zero => rfl
  | succ k ih => rw [core_run_succ h, ih]

end Sys2Proof.Machine
end

section
/-! SUPPORT. The statements on what a step can do, settled. -/

namespace Sys2Proof.Machine

/-- Settles O5: the fetch answers the instruction that the word at PC decodes to. -/
theorem stepRunsTheDecodedInstruction : Obligations.StepRunsTheDecodedInstruction := by
  intro s i hr hpc hd
  exact step_of_fetch_instr hr ((fetch_instr_iff s i).2 ⟨hpc, hd⟩)

/-- Settles O7: a STEP outside RUNNING is idle, and so is every run of them. -/
theorem stepOutsideRunningIsIdle : Obligations.StepOutsideRunningIsIdle :=
  fun _ k hr => core_run_of_idle (step_of_ne_running hr) k

/-- Settles O9: both an instruction and a STEP can end in HALTED only by the shared halt, which writes EXEC alone. -/
theorem haltsArePrecise : Obligations.HaltsArePrecise := by
  intro s t c hr ht h
  have halt : t = s.raiseHalt c := by
    obtain ⟨i, hi⟩ | hs := h
    · exact (haltCause_of_exec hr hi ht).2
    · exact (halt_of_step hr hs ht).2
  exact ⟨halt, halt ▸ frameExcept_execState s _⟩

/-- Settles O10: each clause reads the failed fetches and the causes of a halt at its code. -/
theorem haltCodesHaveTheirCauses : Obligations.HaltCodesHaveTheirCauses := by
  intro s hr
  simp only [step_eq_raiseHalt_iff hr, fetch_error_iff, fetch_instr_iff]
  refine ⟨⟨?_, ?_⟩, ⟨?_, ?_⟩, ⟨?_, ?_⟩, ⟨?_, ?_⟩, ⟨?_, ?_⟩⟩
  · rintro ((⟨h, -⟩ | ⟨-, -, h⟩) | ⟨i, -, h⟩)
    · exact h
    · cases h
    · cases h
  · exact fun h => .inl (.inl ⟨h, trivial⟩)
  · rintro ((⟨-, h⟩ | ⟨hpc, hw, -⟩) | ⟨i, -, h⟩)
    · cases h
    · exact ⟨hpc, hw⟩
    · cases h
  · exact fun ⟨hpc, hw⟩ => .inl (.inr ⟨hpc, hw, trivial⟩)
  · rintro ((⟨-, h⟩ | ⟨-, -, h⟩) | ⟨i, ⟨hpc, hd⟩, h⟩) <;> cases h
    exact ⟨hpc, ⟨_, hd⟩, ‹_›⟩
  · exact fun ⟨hpc, ⟨nnn, hd⟩, hsp⟩ => .inr ⟨_, ⟨hpc, hd⟩, .overflow nnn hsp⟩
  · rintro ((⟨-, h⟩ | ⟨-, -, h⟩) | ⟨i, ⟨hpc, hd⟩, h⟩) <;> cases h
    exact ⟨hpc, hd, ‹_›⟩
  · exact fun ⟨hpc, hd, hsp⟩ => .inr ⟨_, ⟨hpc, hd⟩, .underflow hsp⟩
  · rintro ((⟨-, h⟩ | ⟨-, -, h⟩) | ⟨i, ⟨hpc, hd⟩, h⟩) <;> cases h
    · exact ⟨hpc, _, .inl hd, ‹_›⟩
    · exact ⟨hpc, _, .inr hd, ‹_›⟩
  · rintro ⟨hpc, x, hd | hd, hx⟩
    · exact .inr ⟨_, ⟨hpc, hd⟩, .skp x hx⟩
    · exact .inr ⟨_, ⟨hpc, hd⟩, .sknp x hx⟩

/-- Settles O11: an instruction that does not halt changes its own parts. -/
theorem instructionsWriteOnlyTheirParts : Obligations.InstructionsWriteOnlyTheirParts := by
  intro i s t _ h hf
  obtain ⟨c, -, rfl⟩ | frame := exec_cases h
  · cases hf
  · exact frame

/-- Settles O59: the fault of CALL and RET needs an SP above 16, and no instruction is refused. -/
theorem stepAnswersUnderTheInvariant : Obligations.StepAnswersUnderTheInvariant := by
  refine ⟨fun s => step_next, fun s r h => ?_⟩
  by_cases hr : s.execState = .running
  · cases hf : s.fetch with
    | error c => cases (step_of_fetch_error hr hf).symm.trans h
    | instr i => exact exec_ne_refused i s r ((step_of_fetch_instr hr hf).symm.trans h)
  · cases (step_of_ne_running hr).symm.trans h

end Sys2Proof.Machine
end

section
/-! SUPPORT. The invariants of a run (spec 10_state.md R35, R23, R144): how each instruction and each host operation keeps
each bound. -/

namespace Sys2Proof.Machine

/-! ### What an instruction does to each bounded part -/

/-- Every write of I is reduced mod 4096 (R22). -/
theorem index_le_of_exec {i : Instr} {s t : State} (h : exec i s = .next t) (hi : s.i.toNat ≤ 0xFFF) :
    t.i.toNat ≤ 0xFFF := by
  have written (u : State) (a : Nat) : (u.setI a).advance.i.toNat ≤ 0xFFF := by
    rw [State.advance_i, State.setI_i_toNat]; omega
  obtain ⟨c, -, rfl⟩ | frame := exec_cases h
  · exact hi
  · by_cases hw : .index ∈ writes i
    · cases i <;> simp [writes] at hw
      case ldVxMI x => obtain ⟨b, rfl⟩ := eq_of_exec_ldVxMI h; exact written _ _
      all_goals cases h; exact written _ _
    · rwa [frame .index hw]

/-- CALL and RET move SP by one, within 0 to 16 (R140, R142). -/
theorem sp_le_of_exec {i : Instr} {s t : State} (h : exec i s = .next t) (hsp : s.sp.toNat ≤ 16) : t.sp.toNat ≤ 16 := by
  obtain ⟨c, -, rfl⟩ | frame := exec_cases h
  · exact hsp
  · by_cases hw : .sp ∈ writes i
    · cases i <;> simp [writes] at hw
      case call nnn =>
        obtain ⟨-, e⟩ | ⟨hlt, e⟩ | ⟨-, e⟩ := execCall_cases nnn s <;> cases e.symm.trans h
        · exact hsp
        · rw [State.setPc_sp, State.push_sp_toNat]; omega
      case ret =>
        obtain ⟨-, e⟩ | ⟨_, e⟩ | ⟨-, e⟩ := execRet_cases s <;> cases e.symm.trans h
        · exact hsp
        · rw [State.setPc_sp, State.popSp_sp_toNat]; omega
    · rwa [frame .sp hw]

/-- CALL pushes an address of at most 0x1000 from a PC that can be fetched from, and no other instruction writes the stack
(R142, R35). -/
theorem stack_le_of_exec {i : Instr} {s t : State} (h : exec i s = .next t) (hpc : s.pc.toNat ≤ lastFetch)
    (hst : ∀ k : Fin 16, s.stack[k].toNat ≤ 0x1000) : ∀ k : Fin 16, t.stack[k].toNat ≤ 0x1000 := by
  obtain ⟨c, -, rfl⟩ | frame := exec_cases h
  · exact hst
  · intro k
    by_cases hw : .stack ∈ writes i
    · cases i <;> simp [writes] at hw
      case call nnn =>
        obtain ⟨-, e⟩ | ⟨hlt, e⟩ | ⟨-, e⟩ := execCall_cases nnn s <;> cases e.symm.trans h
        · exact hst k
        · rw [State.setPc_stack, State.push_stack_getElem]
          split
          · simp only [lastFetch] at hpc
            rw [State.returnAddress, BitVec.toNat_ofNat]; omega
          · exact hst k
    · rw [frame .stack hw k]; exact hst k

/-- Every address that a control transfer computes is at most 0x1000: 12 bits, or a stack entry (R144). -/
theorem xferTarget_le {s : State} (hst : ∀ k : Fin 16, s.stack[k].toNat ≤ 0x1000) (i : Instr) :
    xferTarget i s ≤ 0x1000 := by
  cases i
  case ret =>
    rw [xferTarget]
    by_cases hk : s.sp.toNat - 1 < 16
    · rw [Vector.getElem?_eq_getElem hk]; exact hst ⟨_, hk⟩
    · rw [Vector.getElem?_eq_none (by omega)]; decide
  case jp nnn => rw [xferTarget]; omega
  case call nnn => rw [xferTarget]; omega
  case jpV0 nnn => rw [xferTarget]; omega
  all_goals exact Nat.zero_le _

/-- From a PC that can be fetched from, every instruction leaves PC at most 0x1002 (R23, R126). -/
theorem pc_le_of_exec {i : Instr} {s t : State} (hr : s.execState = .running) (h : exec i s = .next t)
    (hpc : s.pc.toNat ≤ lastFetch) (hst : ∀ k : Fin 16, s.stack[k].toNat ≤ 0x1000) : t.pc.toNat ≤ 0x1002 := by
  simp only [lastFetch] at hpc
  by_cases hf : t.isFailed = false
  · have hclass := pcFollowsItsClass i s t hr h hf
    have htarget := xferTarget_le hst i
    split at hclass
    · omega
    · by_cases hs : skipHolds i s
      · have := hclass.1 hs; omega
      · have := hclass.2 hs; omega
    · omega
    · rw [hclass]; omega
  · obtain ⟨c, -, rfl⟩ | e | ⟨x, -, rfl⟩ := exec_cases_of_running hr h
    · rw [State.raiseHalt_pc]; omega
    · simp [State.isFailed, e] at hf
    · exact absurd rfl hf

/-- Only Fx33 and Fx55 write memory, and a block write keeps the canonical form (R64). -/
theorem mem_wf_of_exec {i : Instr} {s t : State} (h : exec i s = .next t) (hm : s.mem.wf) : t.mem.wf := by
  cases i
  case call nnn => obtain ⟨-, e⟩ | ⟨_, e⟩ | ⟨-, e⟩ := execCall_cases nnn s <;> cases e.symm.trans h <;> exact hm
  case ret => obtain ⟨-, e⟩ | ⟨_, e⟩ | ⟨-, e⟩ := execRet_cases s <;> cases e.symm.trans h <;> exact hm
  case skp x => cases h; obtain ⟨-, e⟩ | ⟨k, -, e⟩ := skipOnKey_cases x true s <;> rw [e] <;> exact hm
  case sknp x => cases h; obtain ⟨-, e⟩ | ⟨k, -, e⟩ := skipOnKey_cases x false s <;> rw [e] <;> exact hm
  case ldBVx x => cases h; exact Memory.writeBlock_wf _ _ _ hm
  case ldMIVx x => cases h; exact Memory.writeBlock_wf _ _ _ hm
  case ldVxMI x => obtain ⟨b, rfl⟩ := eq_of_exec_ldVxMI h; simpa using hm
  all_goals cases h; exact hm

/-- RUNNING is not the key wait (R31). -/
theorem isAwaiting_of_running {s : State} (h : s.execState = .running) : s.isAwaiting = false := by
  simp [State.isAwaiting, h]

/-- An instruction leaves the key wait set only at a PC that it was fetched from (R283). -/
theorem pc_of_awaiting_of_exec {i : Instr} {s t : State} (hr : s.execState = .running) (h : exec i s = .next t)
    (hpc : s.pc.toNat ≤ lastFetch) : t.isAwaiting = true → t.pc.toNat ≤ lastFetch := by
  obtain ⟨c, -, rfl⟩ | e | ⟨x, -, rfl⟩ := exec_cases_of_running hr h
  · exact nofun
  · rw [isAwaiting_of_running e]; exact nofun
  · exact fun _ => hpc

/-! ### The host's operations -/

/-- A change of parts that the invariant does not bound keeps it. -/
theorem State.Inv.congr {s t : State} (h : s.Inv) (hi : t.i = s.i) (hsp : t.sp = s.sp) (hpc : t.pc = s.pc)
    (hst : t.stack = s.stack) (he : t.execState = s.execState) (hm : t.mem.wf) : t.Inv := by
  obtain ⟨h₁, h₂, h₃, h₄, h₅, -⟩ := h
  have ha : t.isAwaiting = s.isAwaiting := by rw [State.isAwaiting, State.isAwaiting, he]
  exact ⟨hi ▸ h₁, hsp ▸ h₂, hpc ▸ h₃, hst ▸ h₄, fun e => hpc ▸ h₅ (ha ▸ e), hm⟩

/-- The invariant's clause on memory. -/
theorem State.Inv.mem_wf {s : State} (h : s.Inv) : s.mem.wf := by
  obtain ⟨-, -, -, -, -, hm⟩ := h
  exact hm

/-- The reset state meets the invariant (R350). -/
theorem reset_inv : State.reset.Inv :=
  ⟨by decide, by decide, by decide, by decide, nofun, Memory.reset_wf⟩

/-- The constructed state meets the invariant for every font: it is the reset state but for memory (R350, R351). -/
theorem construct_inv (p : Params) (now draws : Nat) : (State.construct p now draws).Inv :=
  reset_inv.congr rfl rfl rfl rfl rfl (Memory.ofFont_wf p.font)

/-- LOAD keeps the invariant: it writes memory alone (R311). -/
theorem hostLoad_inv {s : State} (h : s.Inv) (b : List Byte) : (hostLoad b s).Inv := by
  obtain ⟨-, e, -⟩ | ⟨-, e, -⟩ := hostLoad_cases b s <;> rw [e]
  · exact h.congr rfl rfl rfl rfl rfl (Memory.writeBlock_wf _ _ _ h.mem_wf)
  · exact h

/-- TIMER_POLL keeps the invariant: it writes the timers alone (R312). -/
theorem hostTimerPoll_inv {s : State} (h : s.Inv) (e : Bool) (now : Nat) : (hostTimerPoll e now s).Inv := by
  cases e
  · exact h
  · exact h.congr rfl rfl rfl rfl rfl h.mem_wf

/-! What SET_KEYS leaves unchanged of the parts that the invariant bounds (R314). -/

@[simp] theorem hostSetKeys_i (k : BitVec 16) (s : State) : (hostSetKeys k s).i = s.i := by rw [hostSetKeys]
@[simp] theorem hostSetKeys_pc (k : BitVec 16) (s : State) : (hostSetKeys k s).pc = s.pc := by rw [hostSetKeys]
@[simp] theorem hostSetKeys_sp (k : BitVec 16) (s : State) : (hostSetKeys k s).sp = s.sp := by rw [hostSetKeys]
@[simp] theorem hostSetKeys_stack (k : BitVec 16) (s : State) : (hostSetKeys k s).stack = s.stack := by rw [hostSetKeys]
@[simp] theorem hostSetKeys_mem (k : BitVec 16) (s : State) : (hostSetKeys k s).mem = s.mem := by rw [hostSetKeys]
@[simp] theorem hostSetKeys_execState (k : BitVec 16) (s : State) : (hostSetKeys k s).execState = s.execState := by
  rw [hostSetKeys]

/-- SET_KEYS keeps the invariant: it writes the key states alone (R314). -/
theorem hostSetKeys_inv {s : State} (h : s.Inv) (k : BitVec 16) : (hostSetKeys k s).Inv :=
  h.congr (by simp) (by simp) (by simp) (by simp) (by simp) (by simpa using h.mem_wf)

/-- KEY_RELEASE keeps the invariant: in the key wait PC is at most 0xFFE, so PC + 2 is at most 0x1000 (R284). -/
theorem hostKeyRelease_inv {s : State} (h : s.Inv) (k : KeyIx) : (hostKeyRelease k s).Inv := by
  obtain ⟨x, hx, e⟩ | ⟨-, e⟩ := hostKeyRelease_cases k s <;> rw [e]
  · obtain ⟨hi, hsp, hpc, hst, hw, hm⟩ := h
    have hpc' : s.pc.toNat ≤ lastFetch := hw (s.isAwaiting_eq_true_iff.2 ⟨x, hx⟩)
    refine ⟨hi, hsp, ?_, hst, nofun, hm⟩
    simp only [lastFetch] at hpc'
    simp; omega
  · exact h

end Sys2Proof.Machine
end

section
/-! SUPPORT. The statements on the invariants, settled. -/

namespace Sys2Proof.Machine

/-- Settles O56: construction gives fixed values, and memory in canonical form. -/
theorem resetMeetsTheInvariant : Obligations.ResetMeetsTheInvariant :=
  ⟨reset_inv, nofun,
    fun p now draws => ⟨construct_inv p now draws, nofun⟩⟩

/-- Settles O57: an idle STEP and a halt write none of the bounded parts, and an instruction keeps each bound. -/
theorem stepKeepsTheInvariant : Obligations.StepKeepsTheInvariant := by
  intro s t hinv h
  obtain ⟨-, rfl⟩ | ⟨-, c, -, rfl⟩ | ⟨hr, i, hf, he⟩ := step_cases h
  · exact hinv
  · obtain ⟨hi, hsp, hpc, hst, -, hm⟩ := hinv
    exact ⟨hi, hsp, hpc, hst, nofun, hm⟩
  · obtain ⟨hi, hsp, -, hst, -, hm⟩ := hinv
    obtain ⟨hpc, -⟩ := (fetch_instr_iff s i).1 hf
    exact ⟨index_le_of_exec he hi, sp_le_of_exec he hsp, pc_le_of_exec hr he hpc hst, stack_le_of_exec he hpc hst,
      pc_of_awaiting_of_exec hr he hpc, mem_wf_of_exec he hm⟩

/-- Every operation keeps the invariant. -/
theorem perform_inv {p : Params} {op : Op} {s t : State} {r : Reply} (hinv : s.Inv)
    (h : perform p op s = .next (t, r)) : t.Inv := by
  obtain ⟨now, -, rfl, -⟩ | ⟨b, -, rfl, -⟩ | ⟨-, hs, -⟩ | ⟨e, now, -, rfl, -⟩ | ⟨k, -, rfl, -⟩ | ⟨k, -, rfl, -⟩ :=
    perform_cases h
  · exact construct_inv p now s.draws
  · exact hostLoad_inv hinv b
  · exact stepKeepsTheInvariant s t hinv hs
  · exact hostTimerPoll_inv hinv e now
  · exact hostSetKeys_inv hinv k
  · exact hostKeyRelease_inv hinv k

/-- Under the invariant every operation answers a next state: SP is at most 16. -/
theorem perform_next_of_inv {s : State} (hinv : s.Inv) (p : Params) (op : Op) :
    ∃ t r, perform p op s = .next (t, r) := by
  obtain ⟨-, hsp, -⟩ := hinv
  exact perform_next p op s (step_next hsp)

/-- Every sequence of operations from a state with the invariant answers a state with it. -/
theorem runAnyOps_inv (p : Params) (ops : List Op) {s : State} (hinv : s.Inv) :
    ∃ t, runAnyOps p ops s = .next t ∧ t.Inv := by
  induction ops generalizing s with
  | nil => exact ⟨s, rfl, hinv⟩
  | cons op rest ih =>
    obtain ⟨t, r, h⟩ := perform_next_of_inv hinv p op
    rw [runAnyOps_cons h]
    exact ih (perform_inv hinv h)

/-- Every state that a host without duties reaches has the invariant. -/
theorem ReachableByAnyHost.inv {p : Params} {s : State} (h : ReachableByAnyHost p s) : s.Inv := by
  obtain ⟨now, draws, ops, hs⟩ := h
  obtain ⟨t, ht, hinv⟩ := runAnyOps_inv p ops (construct_inv p now draws)
  cases hs.symm.trans ht
  exact hinv

/-- What a host of R319 reaches, a host without duties reaches too. -/
theorem Reachable.byAnyHost {p : Params} {s : State} (h : Reachable p s) : ReachableByAnyHost p s := by
  obtain ⟨now, draws, ops, failed, hs⟩ := h
  exact ⟨now, draws, ops, runAnyOps_of_runOps hs⟩

/-- An operation that the host may perform and that answers a next state is a move. -/
theorem hostMove_of_allows {p : Params} {op : Op} {c : Session} (ha : c.allows op = true)
    (h : ∃ t r, perform p op c.engine = .next (t, r)) : ∃ d r, hostMove p op c = some (.next (d, r)) := by
  obtain ⟨t, r, e⟩ := h
  exact ⟨⟨t, c.loadFailedAfter op⟩, r, by simp [hostMove, ha, e]⟩

/-- Settles O58: each operation keeps the invariant and answers under it, so a run does by induction on its operations. -/
theorem hostOperationsKeepTheInvariant : Obligations.HostOperationsKeepTheInvariant := by
  refine ⟨fun p op s hinv => perform_next_of_inv hinv p op, fun p op s t r => perform_inv,
    fun p s h => h.byAnyHost.inv, fun p s h => h.inv, fun p now draws ops => ?_, fun p op c hc => ?_⟩
  · obtain ⟨t, ht, -⟩ := runAnyOps_inv p ops (construct_inv p now draws)
    exact ⟨t, ht⟩
  · by_cases hop : op = .step
    · obtain ⟨hl, hf, hinv⟩ := hc hop
      exact hostMove_of_allows (by simp [hop, hl, hf]) (perform_next_of_inv hinv p op)
    · cases op
      case step => exact absurd rfl hop
      all_goals exact hostMove_of_allows rfl ⟨_, _, rfl⟩

/-- A change that leaves EXEC, PC and the bytes of memory keeps the clause on the latch. -/
theorem State.latchMatches.congr {s t : State} (h : s.latchMatches) (he : t.execState = s.execState) (hpc : t.pc = s.pc)
    (hm : ∀ a, t.mem.read a = s.mem.read a) : t.latchMatches := by
  intro x hx
  rw [fetchWord_congr hpc hm]
  exact h x (he.symm.trans hx)

/-- Settles O60: the latch is set by the Fx0A that was just fetched, which writes neither PC nor memory; SET_KEYS and
TIMER_POLL leave EXEC, PC and memory, and KEY_RELEASE ends the wait. -/
theorem stepKeepsTheLatchWord : Obligations.StepKeepsTheLatchWord := by
  intro s hl
  refine ⟨fun t h => ?_, fun k => hl.congr (by simp) (by simp) (by simp), fun e now => ?_, fun k => ?_⟩
  · obtain ⟨-, rfl⟩ | ⟨-, c, -, rfl⟩ | ⟨hr, i, hf, he⟩ := step_cases h
    · exact hl
    · exact nofun
    · obtain ⟨c, -, rfl⟩ | e | ⟨x, rfl, rfl⟩ := exec_cases_of_running hr he
      · exact nofun
      · intro x hx; cases e.symm.trans hx
      · intro y hy; cases hy
        exact ((fetch_instr_iff s _).1 hf).2
  · cases e
    · exact hl
    · exact hl.congr rfl rfl fun _ => rfl
  · obtain ⟨x, -, e⟩ | ⟨-, e⟩ := hostKeyRelease_cases k s <;> rw [e]
    · exact nofun
    · exact hl

end Sys2Proof.Machine
end

section
/-! SUPPORT. What no instruction reads (spec 10_state.md sections 6 and 7): ST and TIMER_REF, and the keypad but for the key
skips; then the statement on it, settled. -/

namespace Sys2Proof.Machine

/-- The state with TIMER_REF, ST and the keypad changed, each by a function of itself. -/
def State.mapHidden (fr : Nat → Nat) (fb : Byte → Byte) (fk : Vector Bool 16 → Vector Bool 16) (s : State) : State :=
  { s with timerRef := fr s.timerRef, st := fb s.st, key := fk s.key }

section
variable {fr : Nat → Nat} {fb : Byte → Byte} {fk : Vector Bool 16 → Vector Bool 16}

/-- A key skip does not see a change that leaves the keypad (R164, R165). -/
theorem skipOnKey_mapHidden (hk : ∀ k, fk k = k) (x : RegIx) (p : Bool) (s : State) :
    skipOnKey x p (s.mapHidden fr fb fk) = (skipOnKey x p s).mapHidden fr fb fk := by
  have pressed (k : KeyIx) : (s.mapHidden fr fb fk).keyPressed k = s.keyPressed k := by
    simp only [State.keyPressed, State.mapHidden, hk]
  have reg : (s.mapHidden fr fb fk).reg x = s.reg x := rfl
  simp only [skipOnKey, reg, pressed]
  split <;> rfl

/-- CALL does not read the hidden parts (R142). -/
theorem execCall_mapHidden {nnn : Addr} {s t : State} (h : execCall nnn s = .next t) :
    execCall nnn (s.mapHidden fr fb fk) = .next (t.mapHidden fr fb fk) := by
  obtain ⟨hsp, e⟩ | ⟨hsp, e⟩ | ⟨-, e⟩ := execCall_cases nnn s <;> cases e.symm.trans h
  · exact if_pos hsp
  · exact (if_neg (Nat.ne_of_lt hsp)).trans (dif_pos hsp)

/-- RET does not read the hidden parts (R140). -/
theorem execRet_mapHidden {s t : State} (h : execRet s = .next t) :
    execRet (s.mapHidden fr fb fk) = .next (t.mapHidden fr fb fk) := by
  obtain ⟨hsp, e⟩ | ⟨hsp, e⟩ | ⟨-, e⟩ := execRet_cases s <;> cases e.symm.trans h
  · exact if_pos hsp
  · exact (if_neg (Nat.ne_of_gt hsp.1)).trans (dif_pos hsp)

/-- A change of TIMER_REF commutes with every instruction, one of ST with all but Fx18, which overwrites it, and one of the
keypad with all but the key skips, which read it. -/
theorem exec_mapHidden {i : Instr} {s t : State} (hb : (∀ b, fb b = b) ∨ ∀ x, i ≠ .ldStVx x)
    (hk : (∀ k, fk k = k) ∨ ∀ x, i ≠ .skp x ∧ i ≠ .sknp x) (h : exec i s = .next t) :
    exec i (s.mapHidden fr fb fk) = .next (t.mapHidden fr fb fk) := by
  cases i
  case call nnn => exact execCall_mapHidden h
  case ret => exact execRet_mapHidden h
  case skp x =>
    cases h
    exact congrArg _ (skipOnKey_mapHidden (hk.resolve_right fun hne => (hne x).1 rfl) x true s)
  case sknp x =>
    cases h
    exact congrArg _ (skipOnKey_mapHidden (hk.resolve_right fun hne => (hne x).2 rfl) x false s)
  case ldStVx x =>
    cases h
    have kept : fb (s.reg x) = s.reg x := hb.resolve_right (fun hne => hne x rfl) _
    have commuted : (s.setSt (s.reg x)).advance.mapHidden fr fb fk =
        ((s.mapHidden fr fb fk).setSt (fb (s.reg x))).advance := rfl
    rw [commuted, kept]
    rfl
  case ldVxMI x => obtain rfl := Host.Outcome.next.inj h; rfl
  all_goals cases h; rfl

end

/-- Settles O12: each clause is one of the hidden parts changed, to the given value. -/
theorem noInstructionReadsHiddenTimers : Obligations.NoInstructionReadsHiddenTimers := by
  intro i s
  refine ⟨fun r t => ?_, fun b t hst => ?_, fun k t hkey => ?_⟩
  · exact exec_mapHidden (fr := fun _ => r) (fb := id) (fk := id) (.inl fun _ => rfl) (.inl fun _ => rfl)
  · exact exec_mapHidden (fr := id) (fb := fun _ => b) (fk := id) (.inr hst) (.inl fun _ => rfl)
  · exact exec_mapHidden (fr := id) (fb := id) (fk := fun _ => k) (.inl fun _ => rfl) (.inr hkey)

end Sys2Proof.Machine
end

section
/-! SUPPORT. The control transfers, the key skips and the placed word (spec 41_control_transfer.md R140 to R144,
42_skips.md R164, R165, 40_step.md R120, R121). -/

namespace Sys2Proof.Machine

/-! ### Jumps, CALL and RET -/

/-- An instruction that is a write of PC with a 16-bit value completes and changes nothing else (R141, R143). -/
theorem completes_of_exec_eq_setPc {i : Instr} {s : State} {a : Nat} (h : exec i s = .next (s.setPc a))
    (ha : a < 65536) : ∃ t, exec i s = .next t ∧ t.pc.toNat = a ∧ FrameExcept [.pc] s t :=
  ⟨_, h, by rw [State.setPc_pc, BitVec.toNat_ofNat, Nat.mod_eq_of_lt ha], frameExcept_setPc s a⟩

/-- An instruction with a cause to halt completes with its code and changes only EXEC (R302). -/
theorem completes_of_haltCause {i : Instr} {s : State} {c : HaltCode} (h : HaltCause s i c) :
    ∃ t, exec i s = .next t ∧ t.execState = .halted c ∧ FrameExcept [.execState] s t :=
  ⟨_, exec_of_haltCause h, rfl, frameExcept_execState s _⟩

/-- What CALL answers while the stack has room (R142). -/
theorem exec_call_of_lt {s : State} (h : s.sp.toNat < 16) (nnn : Addr) :
    exec (.call nnn) s = .next ((s.push h s.returnAddress).setPc nnn.toNat) :=
  (if_neg (Nat.ne_of_lt h)).trans (dif_pos h)

/-- What RET answers while the stack has an entry (R140). -/
theorem exec_ret_of_pos {s : State} (h : 0 < s.sp.toNat ∧ s.sp.toNat ≤ 16) :
    exec .ret s = .next (s.popSp.setPc (s.stackTop h).toNat) :=
  (if_neg (Nat.ne_of_gt h.1)).trans (dif_pos h)

/-! ### The key skips -/

/-- A key skip whose Vx names a key is the SKIP advance on the key's state (R164, R165). -/
theorem skipOnKey_of_key {x : RegIx} {s : State} {k : KeyIx} (hk : k.val = (s.reg x).toNat) (p : Bool) :
    skipOnKey x p s = s.skipIf (s.keyPressed k = p) := by
  obtain ⟨h, -⟩ | ⟨j, hj, e⟩ := skipOnKey_cases x p s
  · omega
  · obtain rfl : j = k := Fin.ext (hj.trans hk.symm)
    rw [e]; congr 1

/-! ### The placed word -/

/-- The PC of the state with a word placed can be fetched from (log entry 12). -/
theorem fetchablePc_le (s : State) : s.fetchablePc.toNat ≤ lastFetch := by
  unfold State.fetchablePc
  split
  · decide
  · omega

/-- The second address of a fetch is one after the first, mod 4096. -/
theorem fetch_addr_succ (a : Nat) : BitVec.ofNat 12 (a + 1) = BitVec.ofNat 12 a + 1 := by
  apply BitVec.eq_of_toNat_eq; simp

/-- A placed word is what the fetch reads (R68, R121). -/
theorem fetchWord_placeWord (s : State) (w : Word) : (s.placeWord w).fetchWord = w := by
  have hi : (s.placeWord w).mem.read (BitVec.ofNat 12 s.fetchablePc.toNat) = w.extractLsb' 8 8 := by
    simp [State.placeWord, Memory.read_writeBlock, bytesOfWord]
  have lo : (s.placeWord w).mem.read (BitVec.ofNat 12 (s.fetchablePc.toNat + 1)) = w.extractLsb' 0 8 := by
    rw [fetch_addr_succ]
    simp [State.placeWord, Memory.read_writeBlock, bytesOfWord]
  exact (congrArg₂ wordOfBytes hi lo).trans (wordOfBytes_bytesOfWord w)

/-- Placing a word changes only memory, PC and EXEC (log entry 12). -/
theorem frameExcept_placeWord (s : State) (w : Word) : FrameExcept [.mem, .pc, .execState] s (s.placeWord w) := by
  intro p hp
  cases p with
  | mem | pc | execState => simp at hp
  | _ => simp [Part.same, State.placeWord, State.reg, State.keyPressed]

/-- Placing a word writes only the two bytes that the fetch reads. -/
theorem read_placeWord_other (s : State) (w : Word) {a : Addr} (hhi : a ≠ BitVec.ofNat 12 (s.placeWord w).pc.toNat)
    (hlo : a ≠ BitVec.ofNat 12 ((s.placeWord w).pc.toNat + 1)) : (s.placeWord w).mem.read a = s.mem.read a := by
  rw [fetch_addr_succ] at hlo
  refine Memory.read_writeBlock_outside _ _ _ _ (by simp) ?_
  have far : 2 ≤ (a - BitVec.ofNat 12 (s.placeWord w).pc.toNat).toNat := by
    generalize BitVec.ofNat 12 (s.placeWord w).pc.toNat = b at hhi hlo
    bv_omega
  exact far

/-- A word that the table's decoder accepts decodes so. -/
theorem decode_of_decodeTableWord {n w : Nat} {i : Instr} (h : decodeTableWord n w = some i) :
    decode (tableWord n w) = .instr i := by
  unfold decodeTableWord at h
  rw [decodeBytes_bytesOfWord] at h
  split at h <;> cases h
  assumption

/-! ### A jump to itself -/

/-- The 12 bits of a PC that can be fetched from are all of it. -/
theorem toNat_ofNat_of_le_lastFetch {pc : Word} (h : pc.toNat ≤ lastFetch) :
    (BitVec.ofNat 12 pc.toNat).toNat = pc.toNat := by
  simp only [lastFetch] at h
  rw [BitVec.toNat_ofNat]; omega

/-- A transfer to its own address leaves the state as it is. -/
theorem State.setPc_own_address {s : State} (h : s.pc.toNat ≤ lastFetch) :
    s.setPc (BitVec.ofNat 12 s.pc.toNat).toNat = s := by
  rw [State.setPc, toNat_ofNat_of_le_lastFetch h, BitVec.ofNat_toNat, BitVec.setWidth_eq]

/-- The word of a self-jump is the jump to PC (R323). -/
theorem selfJump_word {pc : Word} (h : pc.toNat ≤ lastFetch) :
    0x1000#16 ||| pc = formatA 0x1 (BitVec.ofNat 12 pc.toNat) := by
  apply BitVec.eq_of_toNat_eq
  rw [formatA_toNat, toNat_ofNat_of_le_lastFetch h, BitVec.toNat_or]
  simp only [lastFetch] at h
  exact (Nat.two_pow_add_eq_or_of_lt (i := 12) (by omega) 1).symm

/-- At a self-jump the fetch answers the jump to PC (R323). -/
theorem fetch_of_atSelfJump {s : State} (h : s.atSelfJump = true) :
    s.execState = .running ∧ s.pc.toNat ≤ lastFetch ∧ s.fetch = .instr (.jp (BitVec.ofNat 12 s.pc.toNat)) := by
  simp only [State.atSelfJump, Bool.and_eq_true, decide_eq_true_eq] at h
  obtain ⟨⟨hr, hpc⟩, hw⟩ := h
  exact ⟨hr, hpc, (fetch_instr_iff s _).2 ⟨hpc, by rw [hw, selfJump_word hpc, decode_family1]⟩⟩

/-! ### A CALL of its own address -/

/-- RUNNING at a CALL of PC itself. -/
structure AtSelfCall (s : State) : Prop where
  running : s.execState = .running
  inRange : s.pc.toNat ≤ lastFetch
  word : decode s.fetchWord = .instr (.call (BitVec.ofNat 12 s.pc.toNat))

/-- At a self-CALL a STEP is that CALL. -/
theorem AtSelfCall.step_eq {s : State} (h : AtSelfCall s) : step s = exec (.call (BitVec.ofNat 12 s.pc.toNat)) s :=
  step_of_fetch_instr h.running ((fetch_instr_iff s _).2 ⟨h.inRange, h.word⟩)

/-- A self-CALL that has room on the stack pushes PC + 2 and leaves everything but the stack and SP, so it is there to run
again. -/
theorem AtSelfCall.step_next {s : State} (h : AtSelfCall s) (hsp : s.sp.toNat < 16) :
    ∃ t, step s = .next t ∧ AtSelfCall t ∧ t.sp.toNat = s.sp.toNat + 1 ∧ FrameExcept [.sp, .stack] s t ∧
      ∀ k : Fin 16, t.stack[k] = if k.val = s.sp.toNat then BitVec.ofNat 16 s.returnAddress else s.stack[k] := by
  have pushed : (s.push hsp s.returnAddress).setPc (BitVec.ofNat 12 s.pc.toNat).toNat = s.push hsp s.returnAddress :=
    State.setPc_own_address (s := s.push hsp s.returnAddress) h.inRange
  refine ⟨s.push hsp s.returnAddress, ?_, ⟨h.running, h.inRange, h.word⟩, s.push_sp_toNat hsp _,
    (frameExcept_push s hsp _).mono (by simp), s.push_stack_getElem hsp _⟩
  rw [h.step_eq, exec_call_of_lt hsp, pushed]

/-- A run of self-CALLs that fits the stack fills the entries from SP on with PC + 2. -/
theorem AtSelfCall.run {s : State} (h : AtSelfCall s) (n : Nat) (hn : s.sp.toNat + n ≤ 16) :
    ∃ t, Sys2Proof.core.run n s = .next t ∧ AtSelfCall t ∧ t.sp.toNat = s.sp.toNat + n ∧
      FrameExcept [.sp, .stack] s t ∧
      ∀ k : Fin 16, t.stack[k] =
        if s.sp.toNat ≤ k.val ∧ k.val < s.sp.toNat + n then BitVec.ofNat 16 s.returnAddress else s.stack[k] := by
  induction n generalizing s with
  | zero => exact ⟨s, rfl, h, rfl, frameExcept_refl s _, fun k => (if_neg (by omega)).symm⟩
  | succ n ih =>
    obtain ⟨u, hu, hau, hspu, frameu, stu⟩ := h.step_next (by omega)
    obtain ⟨t, ht, hat, hspt, framet, stt⟩ := ih hau (by omega)
    have pcu : u.returnAddress = s.returnAddress := congrArg (fun pc : Word => (pc.toNat + 2) % 65536)
      (frameu .pc (by simp))
    refine ⟨t, (core_run_succ hu n).trans ht, hat, by omega, frameu.trans framet, fun k => ?_⟩
    rw [stt k, stu k, pcu, hspu]
    by_cases hk : k.val = s.sp.toNat
    · rw [if_neg (by omega), if_pos hk, if_pos (by omega)]
    · rw [if_neg hk]
      exact ite_congr (propext (by omega)) (fun _ => rfl) fun _ => rfl

end Sys2Proof.Machine
end

section
/-! SUPPORT. The statements on the control transfers, the key skips and the placed word, settled. -/

namespace Sys2Proof.Machine

/-- Settles O13: the placed word is what the fetch reads, and placing it is a block write of two bytes. -/
theorem placedWordRunsNext : Obligations.PlacedWordRunsNext := by
  intro s w i h
  have fetched : (s.withFetchWord 16 w).fetch = .instr i := by
    refine (fetch_instr_iff _ i).2 ⟨fetchablePc_le s, ?_⟩
    rw [State.withFetchWord, fetchWord_placeWord, decode_of_decodeTableWord h]
  refine ⟨step_of_fetch_instr rfl fetched, frameExcept_placeWord s _, rfl, fun hpc => ?_, fun hpc => ?_,
    fun a => read_placeWord_other s _⟩
  · exact if_neg (not_lt.2 hpc)
  · exact if_pos hpc

/-- Settles O24: a Vx that names a key makes the skip, a larger one the halt. -/
theorem keySkipsTestTheKeypad : Obligations.KeySkipsTestTheKeypad := by
  intro x s
  have word9E := (congrArg decode (ofNat_formatXK 0xE 0x9E x)).trans (decode_skp x)
  have wordA1 := (congrArg decode (ofNat_formatXK 0xE 0xA1 x)).trans (decode_sknp x)
  refine ⟨⟨word9E, fun k hk => ?_, fun h => completes_of_haltCause (.skp x h)⟩, wordA1, fun k hk => ?_,
    fun h => completes_of_haltCause (.sknp x h)⟩
  · exact completes_of_exec_eq_skipIf (congrArg _ (skipOnKey_of_key hk true))
  · exact completes_of_exec_eq_skipIf (congrArg _ (skipOnKey_of_key hk false))

/-- Settles O25: both jumps are the write of PC with an address of 12 bits. -/
theorem jumpsSetPc : Obligations.JumpsSetPc := by
  intro nnn s
  have word1 := (congrArg decode (ofNat_formatA 0x1 nnn)).trans (decode_family1 nnn)
  have wordB := (congrArg decode (ofNat_formatA 0xB nnn)).trans (decode_familyB nnn)
  exact ⟨⟨word1, completes_of_exec_eq_setPc rfl (by omega)⟩, wordB,
    completes_of_exec_eq_setPc rfl (by omega)⟩

/-- Settles O26: below 16 entries CALL is the push and the write of PC, at 16 the halt. -/
theorem callPushesReturnAddress : Obligations.CallPushesReturnAddress := by
  intro nnn s
  refine ⟨(congrArg decode (ofNat_formatA 0x2 nnn)).trans (decode_family2 nnn), fun h => ?_,
    fun h => completes_of_haltCause (.overflow nnn h)⟩
  refine ⟨_, exec_call_of_lt h nnn, s.push_stack_getElem h s.returnAddress,
    s.push_sp_toNat h s.returnAddress, ?_,
    (frameExcept_push s h _).append (frameExcept_setPc _ _)⟩
  rw [State.setPc_pc, BitVec.toNat_ofNat]; omega

/-- Settles O27: with 1 to 16 entries RET is the pop and the write of PC with the top entry, with none the halt. -/
theorem returnPopsPc : Obligations.ReturnPopsPc := by
  intro s
  refine ⟨rfl, fun k hk => ?_, fun h => completes_of_haltCause (.underflow h)⟩
  have h : 0 < s.sp.toNat ∧ s.sp.toNat ≤ 16 := by omega
  refine ⟨_, exec_ret_of_pos h, ?_, ?_, (frameExcept_popSp s).append (frameExcept_setPc _ _)⟩
  · rw [State.setPc_sp, State.popSp_sp_toNat]; omega
  · simp [State.stackTop, hk]

/-- Settles O28: the CALL leaves its return address at the old SP, which is where the RET reads. -/
theorem callThenReturnResumesAfterCall : Obligations.CallThenReturnResumesAfterCall := by
  intro nnn s t u hsp h hu hst
  cases (exec_call_of_lt hsp nnn).symm.trans h
  have sp : u.sp.toNat = s.sp.toNat + 1 := by rw [hu]; exact s.push_sp_toNat hsp s.returnAddress
  have hu' : 0 < u.sp.toNat ∧ u.sp.toNat ≤ 16 := by omega
  refine ⟨_, exec_ret_of_pos hu', ?_, ?_⟩
  · simp [State.stackTop, sp, hst, State.returnAddress]
  · apply BitVec.eq_of_toNat_eq
    rw [State.setPc_sp, State.popSp_sp_toNat, sp, Nat.add_sub_cancel]

/-- Settles O29: 16 self-CALLs fill the stack, and the 17th has the cause of STACK_OVERFLOW. -/
theorem recursiveCallOverflowsAtDepth17 : Obligations.RecursiveCallOverflowsAtDepth17 := by
  intro s hr hpc hsp hd
  have hs : AtSelfCall s := ⟨hr, hpc, hd⟩
  obtain ⟨t, ht, hat, hspt, frame, st⟩ := hs.run 16 (by omega)
  have full : t.sp.toNat = 16 := by omega
  refine ⟨t, ht, full, hat.running, frame .pc (by simp), fun k => ?_, frame, ?_⟩
  · rw [st k, if_pos (by omega), State.returnAddress, BitVec.toNat_ofNat]; omega
  · have overflow := hat.step_eq.trans (exec_of_haltCause (.overflow _ full))
    exact (core_run_add ht 1).trans (core_run_succ overflow 0)

/-- Settles O30: above 16 neither the checks nor the legal range applies. -/
theorem illegalStackPointerStops : Obligations.IllegalStackPointerStops := by
  intro nnn s h
  exact ⟨(if_neg (by omega)).trans (dif_neg (by omega)), (if_neg (by omega)).trans (dif_neg (by omega))⟩

/-- Settles O54: the jump writes PC with the value it has. -/
theorem selfJumpRepeatsForever : Obligations.SelfJumpRepeatsForever := by
  intro s k h
  obtain ⟨hr, hpc, hf⟩ := fetch_of_atSelfJump h
  exact core_run_of_idle ((step_of_fetch_instr hr hf).trans (congrArg _ (State.setPc_own_address hpc))) k

end Sys2Proof.Machine
end

section
/-! SUPPORT. The subtractions, the shifts and the random byte (spec 43_alu.md R187 to R191): their results as numbers; then
the statements on them, settled. -/

namespace Sys2Proof.Machine

/-- The difference of two bytes is exact mod 256 (R192). -/
theorem subByte_toNat (a b : Byte) : ((subByte a b).toNat : Int) = ((a.toNat : Int) - (b.toNat : Int)) % 256 := by
  rw [subByte, BitVec.toNat_ofInt]; omega

/-- The no-borrow flag as VF receives it (R187, R189). -/
theorem flagByte_noBorrowOf (a b : Byte) : flagByte (noBorrowOf a b) = if b.toNat ≤ a.toNat then 1 else 0 := by
  simp [flagByte, noBorrowOf]

/-- A shift right by 1 is the half (R188). -/
theorem shiftRightOne_toNat (b : Byte) : (shiftRightOne b).toNat = b.toNat / 2 := by
  rw [shiftRightOne, BitVec.toNat_ofNat]; omega

/-- A shift left by 1 is the double mod 256 (R190). -/
theorem shiftLeftOne_toNat (b : Byte) : (shiftLeftOne b).toNat = 2 * b.toNat % 256 := by
  rw [shiftLeftOne, BitVec.toNat_ofNat]

/-- Settles O19: rows 5 and 7 of family 8, each the write of Vx and of the flag of the old registers. -/
theorem subtractionsSetNoBorrow : Obligations.SubtractionsSetNoBorrow := by
  intro x y s
  obtain ⟨t, ht, hx, hf, frame⟩ := completes_of_exec_eq_writeWithFlag (i := .sub x y) (s := s) rfl
  obtain ⟨u, hu, hxu, hfu, frameu⟩ := completes_of_exec_eq_writeWithFlag (i := .subn x y) (s := s) rfl
  refine ⟨⟨decode_ofNat_of_mem_family8Rows (n := 0x5) (by simp [family8Rows]) x y, t, ht, fun h => ?_, ?_, frame⟩,
    decode_ofNat_of_mem_family8Rows (n := 0x7) (by simp [family8Rows]) x y, u, hu, fun h => ?_, ?_, frameu⟩
  · rw [hx h, subByte_toNat]
  · rw [hf, flagByte_noBorrowOf]
  · rw [hxu h, subByte_toNat]
  · rw [hfu, flagByte_noBorrowOf]

/-- Settles O20: rows 6 and E of family 8, each the write of Vx with the shifted Vy and of the bit that moved out. -/
theorem shiftsMoveVyByOne : Obligations.ShiftsMoveVyByOne := by
  intro x y s
  obtain ⟨t, ht, hx, hf, frame⟩ := completes_of_exec_eq_writeWithFlag (i := .shr x y) (s := s) rfl
  obtain ⟨u, hu, hxu, hfu, frameu⟩ := completes_of_exec_eq_writeWithFlag (i := .shl x y) (s := s) rfl
  refine ⟨⟨decode_ofNat_of_mem_family8Rows (n := 0x6) (by simp [family8Rows]) x y, t, ht, fun h => ?_, hf, frame⟩,
    decode_ofNat_of_mem_family8Rows (n := 0xE) (by simp [family8Rows]) x y, u, hu, fun h => ?_, hfu, frameu⟩
  · rw [hx h, shiftRightOne_toNat]
  · rw [hxu h, shiftLeftOne_toNat]

/-- Settles O21: the provider's byte masked, and one draw. -/
theorem randomByteIsMaskedAndDrawn : Obligations.RandomByteIsMaskedAndDrawn := by
  intro x nn s
  have masked : (writeRandom x nn s.randomByte s).reg x = Config.randomByte s.draws &&& nn := by
    simp [writeRandom, State.randomByte]
  have frame := ((frameExcept_setReg s x (s.randomByte &&& nn)).append (frameExcept_countDraw _)).append
    (frameExcept_advance _)
  refine ⟨(congrArg decode (ofNat_formatXNN 0xC x nn)).trans (decode_familyC x nn), _, rfl, masked, rfl, ?_, ?_, ?_,
    by simp [writeRandom], frame⟩
  · rintro rfl; rw [masked]; exact BitVec.and_zero
  · rintro rfl; rw [masked]; exact BitVec.and_allOnes
  · intro y hy
    have hxy : x ≠ y := fun e => hy (by simp [e])
    simp [writeRandom, hxy]

end Sys2Proof.Machine
end

section
/-! SUPPORT. The stores from I (spec 44_index_memory.md R223, R224, 20_memory.md R64, R74): what each byte of memory reads
as after them; then the statements on them, settled. -/

namespace Sys2Proof.Machine

/-- The effective address as a number (R64, R226). -/
theorem indexAddr_toNat (s : State) (k : Nat) : (s.indexAddr k).toNat = (s.i.toNat + k) % 4096 := by
  simp [State.indexAddr]

/-- Byte k of a block stored at I is read at I + k, mod 4096 (R64). -/
theorem read_store_indexAddr (s : State) {bs : List Byte} (hl : bs.length ≤ 4096) {k : Nat} (hk : k < bs.length) :
    (s.store (s.indexAddr 0) bs).mem.read (s.indexAddr k) = bs[k] := by
  have offset : (s.indexAddr k - s.indexAddr 0).toNat = k := by
    rw [indexAddr_eq s k]
    generalize s.indexAddr 0 = a
    bv_omega
  rw [State.store_mem, Memory.read_writeBlock _ _ _ _ hl, dif_pos (by omega)]
  simp only [offset]

/-- A block stored at I changes no byte outside I + 0 to I + its length - 1, mod 4096 (R64). -/
theorem read_store_indexAddr_other (s : State) {bs : List Byte} (hl : bs.length ≤ 4096) {a : Addr}
    (ha : ∀ k < bs.length, a ≠ s.indexAddr k) : (s.store (s.indexAddr 0) bs).mem.read a = s.mem.read a := by
  refine Memory.read_writeBlock_outside _ _ _ _ hl (not_lt.1 fun inside => ha _ inside ?_)
  rw [indexAddr_eq]
  generalize s.indexAddr 0 = b
  bv_omega

/-- Settles O34: row 33 of family F, and the store of three digits at I. -/
theorem decimalDigitsAreStored : Obligations.DecimalDigitsAreStored := by
  intro x s
  have hl : (decimalDigits (s.reg x)).length ≤ 4096 := by simp
  have digit {k : Nat} (hk : k < (decimalDigits (s.reg x)).length) := read_store_indexAddr s hl hk
  refine ⟨decode_ofNat_of_mem_familyFRows (nn := 0x33) (by simp [familyFRows]) x, indexAddr_toNat s, _, rfl, ?_, ?_, ?_,
    fun a h₀ h₁ h₂ => read_store_indexAddr_other s hl fun k hk => ?_, by simp,
    (frameExcept_store s _ _).append (frameExcept_advance _)⟩
  · rw [State.advance_mem, digit (k := 0) (by simp)]
    simp [decimalDigits]; omega
  · rw [State.advance_mem, digit (k := 1) (by simp)]
    simp [decimalDigits]; omega
  · rw [State.advance_mem, digit (k := 2) (by simp)]
    simp [decimalDigits]; omega
  · rw [length_decimalDigits] at hk
    interval_cases k <;> assumption

/-- Settles O35: row 55 of family F, and the store of V0 to Vx at the old I before I and PC advance. -/
theorem registersAreStoredFromI : Obligations.RegistersAreStoredFromI := by
  intro x s
  have hl : (s.regsUpTo x).length ≤ 4096 := by rw [length_regsUpTo]; omega
  refine ⟨decode_ofNat_of_mem_familyFRows (nn := 0x55) (by simp [familyFRows]) x, indexAddr_toNat s, _, rfl,
    fun k hk => ?_, fun a ha => read_store_indexAddr_other s hl fun k hk => ?_,
    by rw [State.advance_i, State.setI_i_toNat], by simp, (frameExcept_store s _ _).setI_advance _⟩
  · have hk' : k.val < (s.regsUpTo x).length := by rw [length_regsUpTo]; exact Nat.lt_succ_of_le hk
    exact (read_store_indexAddr s hl hk').trans (getElem_regsUpTo s x _ hk')
  · rw [length_regsUpTo] at hk
    exact ha ⟨k, by omega⟩ (Fin.mk_le_of_le_val (by omega))

/-- Settles O37: the fetch after the store reads the two bytes that Fx55 put at PC + 2. -/
theorem storedCodeRunsAtTheNextStep : Obligations.StoredCodeRunsAtTheNextStep := by
  intro x s i hx hr hpc hi hd
  obtain ⟨-, -, t, ht, stored, -, -, hpct, frame⟩ := registersAreStoredFromI x s
  have pc : t.pc.toNat = s.i.toNat := by rw [hpct, hi]; omega
  have byte₀ : t.mem.read (BitVec.ofNat 12 t.pc.toNat) = s.reg 0 := by rw [pc]; exact stored 0 (Fin.zero_le x)
  have byte₁ : t.mem.read (BitVec.ofNat 12 (t.pc.toNat + 1)) = s.reg 1 := by
    rw [pc]; exact stored 1 hx
  have word : t.fetchWord = s.reg 0 ++ s.reg 1 := congrArg₂ wordOfBytes byte₀ byte₁
  have fetched : t.fetch = .instr i := (fetch_instr_iff t i).2 ⟨by simp only [lastFetch]; omega, by rw [word, hd]⟩
  exact ⟨t, ht, word, step_of_fetch_instr ((frame .execState (by simp)).trans hr) fetched⟩

end Sys2Proof.Machine
end

section
/-! SUPPORT. The write of DT, the key wait and the timer poll (spec 46_timers_keys.md R281, R283, R284, 60_exceptions.md
R312); then the statements on them, settled. -/

namespace Sys2Proof.Machine

/-- A poll in which a period has elapsed changes the timers and TIMER_REF alone (R312). -/
theorem frameExcept_hostTimerPoll_true (now : Nat) (s : State) :
    FrameExcept [.dt, .st, .timerRef] s (hostTimerPoll true now s) := by
  intro p hp
  cases p with
  | dt | st | timerRef => simp at hp
  | _ => simp [Part.same, State.reg, State.keyPressed]

/-- KEY_RELEASE in the key wait resolves it (R284). -/
theorem hostKeyRelease_of_awaiting {s : State} {x : RegIx} (h : s.execState = .awaitingKey x) (k : KeyIx) :
    hostKeyRelease k s = { (s.setReg x (BitVec.ofNat 8 k.val)).advance with execState := .running } := by
  simp [hostKeyRelease, h]

/-- KEY_RELEASE outside the key wait changes nothing (D12). -/
theorem hostKeyRelease_of_not_awaiting {s : State} (h : s.isAwaiting = false) (k : KeyIx) : hostKeyRelease k s = s := by
  obtain ⟨x, hx, -⟩ | ⟨-, e⟩ := hostKeyRelease_cases k s
  · rw [s.isAwaiting_eq_true_iff.2 ⟨x, hx⟩] at h; cases h
  · exact e

/-- KEY_RELEASE in the key wait writes only the awaiting register (R284). -/
theorem regsExcept_hostKeyRelease {s : State} {x : RegIx} (h : s.execState = .awaitingKey x) (k : KeyIx) :
    RegsExcept [x] s (hostKeyRelease k s) := by
  intro y hy
  have hxy : x ≠ y := fun e => hy (by simp [e])
  rw [hostKeyRelease_of_awaiting h]
  exact (State.reg_setReg s x y _).trans (if_neg hxy)

/-- KEY_RELEASE changes at most the registers, PC and EXEC (R284). -/
theorem frameExcept_hostKeyRelease (k : KeyIx) (s : State) :
    FrameExcept [.regs, .pc, .execState] s (hostKeyRelease k s) := by
  obtain ⟨x, -, e⟩ | ⟨-, e⟩ := hostKeyRelease_cases k s <;> rw [e]
  · exact (frameExcept_setReg s x _).advance.append (frameExcept_execState _ _)
  · exact frameExcept_refl s _

/-- A poll takes at most one from DT (R312). -/
theorem dt_le_hostTimerPoll (e : Bool) (now : Nat) (s : State) : s.dt.toNat ≤ (hostTimerPoll e now s).dt.toNat + 1 := by
  cases e
  · simp
  · simp; omega

/-- A poll takes at most one from ST (R312). -/
theorem st_le_hostTimerPoll (e : Bool) (now : Nat) (s : State) : s.st.toNat ≤ (hostTimerPoll e now s).st.toNat + 1 := by
  cases e
  · simp
  · simp; omega

/-- Of two polls less than a period apart, at most one counts down: the first leaves the state, or the second does (S9). -/
theorem hostTimerPollAt_twice {a b : Nat} (hab : 60 * (b - a) < nanosPerSecond) (s : State) :
    ∃ e now, hostTimerPollAt b (hostTimerPollAt a s) = hostTimerPoll e now s := by
  by_cases h : s.periodElapsed a = true
  · have first : hostTimerPollAt a s = hostTimerPoll true a s := by rw [hostTimerPollAt, h]
    have second : (hostTimerPoll true a s).periodElapsed b = false := decide_eq_false (not_le.2 hab)
    exact ⟨true, a, by rw [first, hostTimerPollAt, second, hostTimerPoll_false]⟩
  · have first : hostTimerPollAt a s = s := by
      rw [hostTimerPollAt, Bool.eq_false_of_not_eq_true h, hostTimerPoll_false]
    exact ⟨s.periodElapsed b, b, by rw [first, hostTimerPollAt]⟩

/-- Settles O43: row 15 of family F, and the write of DT. -/
theorem setDelayTimer : Obligations.SetDelayTimer := by
  intro x s
  exact ⟨decode_ofNat_of_mem_familyFRows (nn := 0x15) (by simp [familyFRows]) x, _, rfl, rfl, by simp,
    (frameExcept_setDt s _).append (frameExcept_advance _)⟩

/-- Settles O45: row 0A of family F, and the write of EXEC alone, after which STEP is idle and DT counts on. -/
theorem keyWaitEntersTheLatch : Obligations.KeyWaitEntersTheLatch := by
  intro x s
  exact ⟨decode_ofNat_of_mem_familyFRows (nn := 0x0A) (by simp [familyFRows]) x, _, rfl, rfl, frameExcept_execState s _,
    step_of_ne_running nofun, fun now => countDown_toNat _⟩

/-- Settles O46: in the key wait it is the write of the awaiting register, PC and EXEC, and outside it nothing. -/
theorem keyReleaseResolvesTheLatch : Obligations.KeyReleaseResolvesTheLatch := by
  intro k s
  refine ⟨fun x hx => ?_, fun h => hostKeyRelease_of_not_awaiting h k⟩
  have running := hostKeyRelease_execState_of_awaiting hx k
  refine ⟨?_, regsExcept_hostKeyRelease hx k, ?_, running, frameExcept_hostKeyRelease k s,
    hostKeyRelease_of_not_awaiting (isAwaiting_of_running running)⟩
  · have written : (hostKeyRelease k s).reg x = BitVec.ofNat 8 k.val := by
      rw [hostKeyRelease_of_awaiting hx]
      exact (State.reg_setReg s x x _).trans (if_pos rfl)
    rw [written, BitVec.toNat_ofNat]; omega
  · rw [hostKeyRelease_of_awaiting hx]; simp

/-- Settles O47: a gated poll counts both timers down and sets TIMER_REF, and one without an elapsed period is idle. -/
theorem timerPollCountsDownToZero : Obligations.TimerPollCountsDownToZero := by
  intro now s
  refine ⟨?_, ?_, rfl, frameExcept_hostTimerPoll_true now s, rfl⟩
  · rw [hostTimerPoll_true, countDown_toNat]; split <;> omega
  · rw [hostTimerPoll_true, countDown_toNat]; split <;> omega

/-- Settles O48: both polls together are one poll. -/
theorem pollsWithinAPeriodCountOnce : Obligations.PollsWithinAPeriodCountOnce := by
  intro s a b _ _ hab
  obtain ⟨e, now, h⟩ := hostTimerPollAt_twice hab s
  rw [h]
  exact ⟨dt_le_hostTimerPoll e now s, st_le_hostTimerPoll e now s⟩

end Sys2Proof.Machine
end

section
/-! SUPPORT. DRW (spec 45_display.md R251 to R255): the drawn sprite is the one that the rules describe, and what two draws
of it do; then the statements on it, settled. -/

namespace Sys2Proof.Machine

/-- The sprite bit of the rules, in the terms of the drawer (R251, R252). -/
theorem spriteOn_eq (s : State) (x y : RegIx) (n : BitVec 4) (px py : Nat) :
    spriteOn s x y n px py =
      (decide (startColumn (s.reg x) ≤ px ∧ px < startColumn (s.reg x) + 8 ∧ startRow (s.reg y) ≤ py ∧
          py < startRow (s.reg y) + n.toNat) &&
        spriteBit (s.mem.read (s.indexAddr (py - startRow (s.reg y)))) (px - startColumn (s.reg x))) := rfl

/-- The sprite that the drawing loop draws has its 1 bits where the rules say (R251, R252). -/
theorem spriteCovers_spriteRows (s : State) (x y : RegIx) (n : BitVec 4) (px py : Nat) :
    spriteCovers (startColumn (s.reg x)) (startRow (s.reg y)) (s.spriteRows n) px py = spriteOn s x y n px py := by
  have length : (s.spriteRows n).length = n.toNat := Memory.length_readBlock _ _ _
  rw [spriteOn_eq, spriteCovers]
  split <;> rename_i h
  · have row : (s.spriteRows n)[py - startRow (s.reg y)]'(by omega) =
        s.mem.read (s.indexAddr (py - startRow (s.reg y))) := by
      rw [indexAddr_eq]; exact Memory.getElem_readBlock _ _ _ _ _
    rw [length] at h
    rw [row, decide_eq_true h, Bool.true_and]
  · rw [length] at h
    rw [decide_eq_false h, Bool.false_and]

/-- The flag byte is 1 exactly when the flag is set, and 0 otherwise. -/
theorem flagByte_eq_one_iff (c : Bool) : flagByte c = 1 ↔ c = true := by
  cases c <;> decide

theorem flagByte_zero_or_one (c : Bool) : flagByte c = 0 ∨ flagByte c = 1 := by
  cases c <;> decide

/-- Settles O39: the pixels and the collision of the drawn rows, read at the sprite of the rules. -/
theorem drawXorsSpriteAndDetectsCollision : Obligations.DrawXorsSpriteAndDetectsCollision := by
  intro x y n s
  refine ⟨(congrArg decode (ofNat_formatXYN 0xD x y n)).trans (decode_familyD x y n), _, rfl, fun px py => ?_,
    ?_, ?_, fun k hk => ?_, by simp,
    ((frameExcept_setFb s _).append (frameExcept_setReg _ vf _)).append (frameExcept_advance _)⟩
  · rw [State.advance_fb, State.setReg_fb, State.setFb_fb, drawRows_pixel, spriteCovers_spriteRows]
  · rw [State.reg_advance, State.reg_setReg, if_pos (by rfl)]
    exact flagByte_zero_or_one _
  · rw [State.reg_advance, State.reg_setReg, if_pos (by rfl), flagByte_eq_one_iff, drawRows_hit]
    simp only [Bool.false_eq_true, false_or, spriteCovers_spriteRows]
  · have hkf : vf ≠ k := fun e => hk (by simp [← e, vf])
    rw [State.reg_advance, State.reg_setReg, if_neg hkf, State.reg_setFb]

/-! ### Two draws of one sprite (R255) -/

/-- What a DRW that answers `t` does: the clauses of O39 on the drawn state. -/
theorem draws_of_exec_drw {x y : RegIx} {n : BitVec 4} {s t : State} (h : exec (.drw x y n) s = .next t) :
    (∀ px py, t.fb.pixel px py = (s.fb.pixel px py ^^ spriteOn s x y n px.val py.val)) ∧
      (t.reg 15 = 0 ∨ t.reg 15 = 1) ∧
      (t.reg 15 = 1 ↔ ∃ (px : Fin 64) (py : Fin 32),
        spriteOn s x y n px.val py.val = true ∧ s.fb.pixel px py = true) ∧
      RegsExcept [15] s t ∧ FrameExcept [.fb, .regs, .pc] s t := by
  obtain ⟨-, t', ht', pixels, flag, hit, regs, -, frame⟩ := drawXorsSpriteAndDetectsCollision x y n s
  cases ht'.symm.trans h
  exact ⟨pixels, flag, hit, regs, frame⟩

/-- The sprite depends only on the registers x and y, I and memory (R251). -/
theorem spriteOn_congr {s u : State} {x y : RegIx} (hx : u.reg x = s.reg x) (hy : u.reg y = s.reg y) (hi : u.i = s.i)
    (hm : ∀ a, u.mem.read a = s.mem.read a) (n : BitVec 4) (px py : Nat) :
    spriteOn u x y n px py = spriteOn s x y n px py := by
  simp only [spriteOn, State.indexAddr, hx, hy, hi, hm]

/-- A flag that is 0 or 1, and 1 exactly when a condition holds, is that condition's flag. -/
theorem eq_ite_of_eq_one_iff {b : Byte} {P : Prop} [Decidable P] (hb : b = 0 ∨ b = 1) (h : b = 1 ↔ P) :
    b = if P then 1 else 0 := by
  split
  · exact h.2 ‹_›
  · exact hb.resolve_right fun e => ‹¬ P› (h.1 e)

/-- Settles O40: both draws have one sprite, so the second flips back what the first flipped, and it meets a set pixel
under a 1 bit exactly where the first met an unset one. -/
theorem drawTwiceRestoresFramebuffer : Obligations.DrawTwiceRestoresFramebuffer := by
  intro x y n s t u r hx hy hst hv hi hm hfb hur
  obtain ⟨pixelt, -, hitt, regst, framet⟩ := draws_of_exec_drw hst
  obtain ⟨pixelr, flagr, hitr, -, -⟩ := draws_of_exec_drw hur
  have regu (k : RegIx) (hk : k ≠ 15) : u.reg k = s.reg k :=
    (congrArg (fun v : Vector Byte 16 => v[k]) hv).trans (regst k (by simpa using hk))
  have sprite (px py : Nat) : spriteOn u x y n px py = spriteOn s x y n px py :=
    spriteOn_congr (regu x hx) (regu y hy) (hi.trans (framet .index (by simp)))
      (fun a => hm ▸ framet .mem (by simp) a) n px py
  have pixelu (px : Fin 64) (py : Fin 32) :
      u.fb.pixel px py = (s.fb.pixel px py ^^ spriteOn s x y n px.val py.val) := hfb ▸ pixelt px py
  have under {px : Fin 64} {py : Fin 32} (on : spriteOn s x y n px.val py.val = true) :
      u.fb.pixel px py = true ↔ s.fb.pixel px py = false := by
    rw [pixelu, on, Bool.xor_true, Bool.not_eq_true']
  have hit : r.reg 15 = 1 ↔ ∃ (px : Fin 64) (py : Fin 32),
      spriteOn s x y n px.val py.val = true ∧ s.fb.pixel px py = false := by
    rw [hitr]
    exact exists₂_congr fun px py => by rw [sprite]; exact and_congr_right under
  refine ⟨FrameBuffer.ext_pixel fun px py => ?_, eq_ite_of_eq_one_iff flagr hit,
    fun missed => eq_ite_of_eq_one_iff flagr (hit.trans ?_)⟩
  · rw [pixelr, sprite, pixelu, Bool.xor_assoc, Bool.xor_self, Bool.xor_false]
  · refine exists₂_congr fun px py => and_iff_left_of_imp fun on => ?_
    have noHit : t.reg 15 ≠ 1 := by rw [missed]; decide
    exact Bool.eq_false_of_not_eq_true fun set => noHit (hitt.2 ⟨px, py, on, set⟩)

/-- The reset state with every pixel set. -/
def whiteScreen : State := State.reset.setFb (Vector.replicate 64 (Vector.replicate 32 true))

/-- Refutes O41: on a screen with every pixel set, the first draw of the glyph row at I = 0 clears the pixels under it, and
the second meets no set pixel, although the row has a 1 bit on the screen. -/
theorem not_secondDrawCollidesWheneverSpriteIsVisible :
    ¬ Obligations.SecondDrawCollidesWheneverSpriteIsVisible := by
  intro h
  obtain ⟨t, first⟩ : ∃ t, exec (.drw 0 1 1) whiteScreen = .next t := ⟨_, rfl⟩
  obtain ⟨r, second⟩ : ∃ r, exec (.drw 0 1 1) t = .next r := ⟨_, rfl⟩
  have visible : spriteOn whiteScreen 0 1 1 0 0 = true := by decide
  have allSet (px : Fin 64) (py : Fin 32) : whiteScreen.fb.pixel px py = true := by
    simp [whiteScreen, FrameBuffer.pixel]
  have one := h 0 1 1 whiteScreen t t r (by decide) (by decide) first rfl rfl rfl rfl second
  obtain ⟨-, zero, -⟩ :=
    drawTwiceRestoresFramebuffer 0 1 1 whiteScreen t t r (by decide) (by decide) first rfl rfl rfl rfl second
  rw [if_pos ⟨0, 0, visible⟩] at one
  rw [if_neg (by simp [allSet]), one] at zero
  exact absurd zero (by decide)

end Sys2Proof.Machine
end

section
/-! SUPPORT. The canonical form of memory (spec 20_memory.md sections 1 and 2; log entry 1): a memory in it lists exactly the
bytes that differ from the reset contents; then the statement on it, settled. -/

namespace Sys2Proof.Machine

/-- In a list of rising addresses the listed byte of an address is the one entry with that address. -/
theorem Memory.find_eq_some_iff {m : Memory} (h : m.Pairwise fun c d => c.1 < d.1) (a : Nat) (b : Byte) :
    m.find a = some b ↔ (a, b) ∈ m := by
  induction m with
  | nil => simp [Memory.find]
  | cons c rest ih =>
    obtain ⟨k, v⟩ := c
    obtain ⟨above, hrest⟩ := List.pairwise_cons.1 h
    rw [Memory.find, List.mem_cons, Prod.mk.injEq]
    split
    · subst k
      have notLater : (a, b) ∉ rest := fun hm => absurd (above _ hm) (lt_irrefl a)
      simp [notLater, eq_comm]
    · rename_i hk
      simp [ih hrest, Ne.symm hk]

/-- In canonical form an entry is an address below 4096 that reads as the entry's byte, and not as the reset contents. -/
theorem Memory.mem_iff_read {m : Memory} (h : m.wf) (c : Host.Cell) :
    c ∈ m ↔ ∃ a : Addr, a.toNat = c.1 ∧ m.read a = c.2 ∧ c.2 ≠ Memory.base c.1 := by
  obtain ⟨rising, entries⟩ := h
  obtain ⟨k, b⟩ := c
  constructor
  · intro hc
    obtain ⟨hk, hb⟩ := entries _ hc
    have number : (BitVec.ofNat 12 k).toNat = k := by rw [BitVec.toNat_ofNat]; exact Nat.mod_eq_of_lt hk
    have listed := (Memory.find_eq_some_iff rising k b).2 hc
    exact ⟨BitVec.ofNat 12 k, number, by rw [Memory.read, number, listed, Option.getD_some], hb⟩
  · rintro ⟨a, rfl, hr, hb⟩
    refine (Memory.find_eq_some_iff rising _ _).1 ?_
    cases hf : m.find a.toNat with
    | none => rw [Memory.read, hf] at hr; exact absurd hr.symm hb
    | some v => rw [Memory.read, hf, Option.getD_some] at hr; rw [hr]

/-- Settles O55: equal reads give the same entries, and a list of rising addresses is determined by its entries. -/
theorem canonicalMemoriesWithEqualReadsAreEqual : Obligations.CanonicalMemoriesWithEqualReadsAreEqual := by
  intro m n hm hn h
  have sameEntries (c : Host.Cell) : c ∈ m ↔ c ∈ n := by
    rw [Memory.mem_iff_read hm, Memory.mem_iff_read hn]; simp only [h]
  have irreflexive : Std.Irrefl fun c d : Host.Cell => c.1 < d.1 := ⟨fun c => lt_irrefl c.1⟩
  have antisymmetric : Std.Antisymm fun c d : Host.Cell => c.1 < d.1 := ⟨fun c d hcd hdc => absurd hcd (lt_asymm hdc)⟩
  exact List.Pairwise.eq_of_mem_iff hm.1 hn.1 sameEntries

end Sys2Proof.Machine
end

section
/-! SUPPORT. The wait states and the host's duties (spec 60_exceptions.md R311, R319, R322): a host in a state that forbids
STEP cannot reach one by operations other than RESET; then the statements on them, settled. -/

namespace Sys2Proof.Machine

/-! ### Runs that may not STEP -/

/-- An operation other than STEP is always a move, and performs itself (R308, R319). -/
theorem hostMove_of_ne_step (p : Params) {op : Op} (h : op ≠ .step) (c : Session) :
    ∃ t r, perform p op c.engine = .next (t, r) ∧ hostMove p op c = some (.next (⟨t, c.loadFailedAfter op⟩, r)) := by
  cases op
  case step => exact absurd rfl h
  all_goals exact ⟨_, _, rfl, rfl⟩

/-- A move that answers a next state leads to the run of the rest. -/
theorem runOps_cons {p : Params} {op : Op} {ops : List Op} {c d : Session} {r : Reply}
    (h : hostMove p op c = some (.next (d, r))) : runOps p (op :: ops) c = runOps p ops d := by
  simp [runOps, h]

/-- A run that begins with a forbidden operation is no run. -/
theorem runOps_cons_of_not_allows {p : Params} {op : Op} {ops : List Op} {c : Session} (h : c.allows op = false) :
    runOps p (op :: ops) c = none := by
  simp [runOps, hostMove, h]

/-- If STEP is forbidden wherever `Q` holds, and every operation but RESET keeps `Q`, no run from `Q` without a RESET has a
STEP. -/
theorem runOps_step_eq_none {p : Params} {Q : Session → Prop} (forbids : ∀ c, Q c → c.allows .step = false)
    (keeps : ∀ c op t r, Q c → op ≠ .step → (∀ now, op ≠ .reset now) → perform p op c.engine = .next (t, r) →
      Q ⟨t, c.loadFailedAfter op⟩)
    {ops : List Op} (hops : ∀ now, .reset now ∉ ops) {c : Session} (hc : Q c) : runOps p (ops ++ [.step]) c = none := by
  induction ops generalizing c with
  | nil => exact runOps_cons_of_not_allows (forbids c hc)
  | cons op rest ih =>
    by_cases hs : op = .step
    · subst hs; exact runOps_cons_of_not_allows (forbids c hc)
    · obtain ⟨t, r, hp, hm⟩ := hostMove_of_ne_step p hs c
      have hr : ∀ now, op ≠ .reset now := fun now e => hops now (by simp [e])
      have hrest : ∀ now, .reset now ∉ rest := fun now hn => hops now (List.mem_cons_of_mem _ hn)
      exact (runOps_cons hm).trans (ih hrest (keeps c op t r hc hs hr hp))

/-! ### HALTED -/

theorem State.isFailed_eq_true_iff (s : State) : s.isFailed = true ↔ ∃ c, s.execState = .halted c := by
  unfold State.isFailed
  split <;> simp [*]

/-- In HALTED every operation but RESET keeps EXEC (R322, D12). -/
theorem perform_keeps_execState_of_halted {p : Params} {op : Op} {s t : State} {r : Reply} {c : HaltCode}
    (hc : s.execState = .halted c) (hn : ∀ now, op ≠ .reset now) (h : perform p op s = .next (t, r)) :
    t.execState = s.execState := by
  by_cases hk : ∃ k, op = .keyRelease k
  · obtain ⟨k, rfl⟩ := hk
    cases h
    rw [hostKeyRelease_of_not_awaiting (by simp [State.isAwaiting, hc])]
  · exact perform_keeps_execState_of_ne_running (by simp [hc]) (fun k e => hk ⟨k, e⟩) hn h

/-- In HALTED every operation but RESET stays in it. -/
theorem perform_keeps_isFailed {p : Params} {op : Op} {s t : State} {r : Reply} (hf : s.isFailed = true)
    (hn : ∀ now, op ≠ .reset now) (h : perform p op s = .next (t, r)) : t.isFailed = true := by
  obtain ⟨c, hc⟩ := s.isFailed_eq_true_iff.1 hf
  exact t.isFailed_eq_true_iff.2 ⟨c, (perform_keeps_execState_of_halted hc hn h).trans hc⟩

/-! ### The obligations -/

/-- Settles O50: STEP is idle outside RUNNING, only KEY_RELEASE and RESET write EXEC there, KEY_RELEASE only in the key
wait, and HALTED forbids the STEP of a host that keeps its duties. -/
theorem waitStatesEndOnlyAsListed : Obligations.WaitStatesEndOnlyAsListed := by
  intro p s
  refine ⟨fun hr => ⟨step_of_ne_running hr, fun now => ⟨countDown_toNat _, countDown_toNat _⟩⟩, fun x hx => ⟨?_, ?_⟩,
    fun c hc op t r hn h => perform_keeps_execState_of_halted hc hn h, fun now => rfl, fun hf f ops hops => ?_⟩
  · exact fun op t r hk hn h => perform_keeps_execState_of_ne_running (by simp [hx]) hk hn h
  · exact fun k => ⟨regsExcept_hostKeyRelease hx k, frameExcept_hostKeyRelease k s⟩
  · exact runOps_step_eq_none (Q := fun c => c.engine.isFailed = true) (fun c hc => by simp [hc])
      (fun c op t r hc _ hn h => perform_keeps_isFailed hc hn h) hops hf

/-- Settles O51: an image that fits is a block store at 0x200, and one that does not is remembered, which forbids STEP. -/
theorem loadCopiesTheImage : Obligations.LoadCopiesTheImage := by
  intro p b s
  refine ⟨fun hb => ?_, fun hb => ?_⟩
  · have hl : b.length ≤ 4096 := by omega
    refine ⟨s.store (BitVec.ofNat 12 progBase) b, ?_, fun j hj => ?_, fun a ha => ?_, frameExcept_store s _ b⟩
    · simp [perform, hostLoad, loadReply, progMax, hb]
    · have offset : (BitVec.ofNat 12 (0x200 + j) - BitVec.ofNat 12 progBase).toNat = j := by
        simp only [progBase]; bv_omega
      rw [State.store_mem, Memory.read_writeBlock _ _ _ _ hl, dif_pos (by omega)]
      simp only [offset]
    · refine Memory.read_writeBlock_outside _ _ _ _ hl ?_
      simp only [progBase]; bv_omega
  · obtain ⟨hle, -⟩ | ⟨-, same, reply⟩ := hostLoad_cases b s
    · simp only [progMax] at hle; omega
    have refused : perform p (.load b) s = .next (s, .programTooLarge) := by rw [perform, same, reply]
    refine ⟨refused, fun f ops hops => ?_⟩
    have remembered : hostMove p (.load b) ⟨s, f⟩ = some (.next (⟨s, true⟩, .programTooLarge)) := by
      simp [hostMove, Session.allows, refused, Session.loadFailedAfter, progMax, hb]
    rw [runOps_cons remembered]
    exact runOps_step_eq_none (Q := fun c => c.loadFailed = true) (fun c hc => by simp [hc])
      (fun c op t r hc _ hn _ => Session.loadFailedAfter_of_failed hc hn) hops rfl

end Sys2Proof.Machine
end

section
/-! SUPPORT. The outputs and the values after RESET (spec 10_state.md R32, R36, 60_exceptions.md R313, R316,
70_reset_and_hazards.md R350); then the statements on them, settled. -/

namespace Sys2Proof.Machine

/-! ### The outputs -/

/-- STATUS in RUNNING is 0 (R32). -/
theorem status_of_running {s : State} (h : s.execState = .running) : s.status = 0 := by
  rw [State.status, h]; rfl

/-- STATUS in the key wait: the state field 1 and the target above it (R32). -/
theorem status_of_awaiting {s : State} {x : RegIx} (h : s.execState = .awaitingKey x) :
    s.status.toNat = 1 + 4 * x.val := by
  have layout : ∀ t : RegIx, ((0 : BitVec 2) ++ BitVec.ofNat 4 t.val ++ (1 : BitVec 2)).toNat = 1 + 4 * t.val := by
    decide
  rw [State.status, h]
  exact layout x

/-- STATUS in HALTED: the state field 2 and the code above it (R32, R301). -/
theorem status_of_halted {s : State} {c : HaltCode} (h : s.execState = .halted c) :
    s.status = BitVec.ofNat 8 (2 + 4 * c.number) := by
  rw [State.status, h]
  cases c <;> rfl

/-- Bit k of the FB port is the pixel (k mod 64, k div 64) (R316, D18). -/
theorem fbPort_getElem (s : State) {k : Nat} (hk : k < 2048) :
    s.fbPort[k] = s.fb.pixel ⟨k % 64, by omega⟩ ⟨k / 64, by omega⟩ := by
  simp [State.fbPort, FrameBuffer.pixel]

/-- Settles O53: the fields of STATUS by the state of EXEC, and the pixel of each bit of the port. -/
theorem outputsShowTheState : Obligations.OutputsShowTheState := by
  intro s
  refine ⟨⟨status_of_running, fun x => status_of_awaiting, status_of_halted, status_of_halted,
    status_of_halted, status_of_halted, status_of_halted⟩, tone_eq_true_iff s, fun px py => ?_, fun k => ?_⟩
  · have hk : py.val * 64 + px.val < 2048 := by omega
    rw [Vector.getElem?_eq_getElem hk, fbPort_getElem s hk]
    congr 3 <;> omega
  · exact ⟨⟨k.val % 64, by omega⟩, ⟨k.val / 64, by omega⟩, by simp only; omega, fbPort_getElem s k.isLt⟩

/-! ### The values after RESET -/

/-- Byte r of glyph d lies at 5·d + r (R36). -/
theorem fontByte_glyph (f : Font) (d : Fin 16) (r : Fin 5) : fontByte f (5 * d.val + r.val) = f[d][r] := by
  have hd : (5 * d.val + r.val) / 5 = d.val := by omega
  have hr : (5 * d.val + r.val) % 5 = r.val := by omega
  have ha : 5 * d.val + r.val < 80 := by omega
  simp [fontByte, ha, hd, hr]

/-- Above the font every byte is zero after construction (R62). -/
theorem fontByte_above (f : Font) {a : Nat} (h : 80 ≤ a) : fontByte f a = 0 := dif_neg (by omega)

/-- The default font lists no byte: unlisted addresses read as it (log entry 1). -/
theorem Memory.ofFont_default : Memory.ofFont defaultFont = [] := by
  refine List.filter_eq_nil_iff.2 fun c hc => ?_
  obtain ⟨a, -, rfl⟩ := List.mem_map.1 hc
  simp [Memory.base]

/-- Settles O52: RESET is construction, whose fields are fixed values and whose memory reads as the font and zero. -/
theorem resetGivesConstructionValues : Obligations.ResetGivesConstructionValues := by
  refine ⟨fun p now s => ?_, ?_⟩
  · have byte (a : Addr) : (hostReset p now s).mem.read a = fontByte p.font a.toNat := Memory.read_ofFont p.font a
    refine ⟨fun x => Vector.getElem_replicate _, rfl, rfl, rfl, fun k => Vector.getElem_replicate _, rfl, rfl,
      fun d r => ?_, fun a ha => ?_, fun k => Vector.getElem_replicate _, FrameBuffer.pixel_clear, rfl, rfl, rfl,
      status_of_running rfl, rfl⟩
    · have number : (BitVec.ofNat 12 (5 * d.val + r.val)).toNat = 5 * d.val + r.val := by
        rw [BitVec.toNat_ofNat]; omega
      rw [byte, number, fontByte_glyph]
    · rw [byte, fontByte_above p.font ha]
  · simp only [State.construct, defaultParams, Memory.ofFont_default]
    rfl

end Sys2Proof.Machine
end
